-- ==== Sys2Proof/Word.lean ====
section
/-! DEFINITION. The word types of SFCH: bus words, bus addresses, and the two floating-point formats, which the spec
treats as bit patterns (R7, R10, R98). -/

namespace Sys2Proof

/-- One bus word (R7: "the host bus moves 32-bit words"). -/
abbrev Word := BitVec 32

/-- A host byte address (R7: 24 bits). -/
abbrev Addr := BitVec 24

/-- One byte of a memory window. -/
abbrev Byte := BitVec 8

/-- An IEEE-754 binary64 datum, as its encoding (R10). -/
abbrev F64 := BitVec 64

/-- An IEEE-754 binary32 datum, as its encoding (R10). -/
abbrev F32 := BitVec 32

end Sys2Proof
end

