-- ==== Sys2Proof/Config.lean ====
section
/-! DEFINITION. The numerics record (R14), what an implementation fixes (R6), and the values the spec leaves open, each
an opaque constant: nothing can evaluate one or prove a value of it. -/

namespace Sys2Proof

/-- The operations of NUM whose result can be a NaN with a payload and sign the spec leaves open (I3). -/
inductive NumOp
  | add | sub | mul | div | sqrt | log10 | atan2 | toF32
deriving DecidableEq, Repr

/-- The numerics record NUM (R14): every field a total function of its operands alone. The functions that compute take
it as an argument; an instance says which record it has by a name that is plain data (R18). -/
structure Numerics where
  add : F64 → F64 → F64
  sub : F64 → F64 → F64
  mul : F64 → F64 → F64
  div : F64 → F64 → F64
  sqrt : F64 → F64
  sin : F64 → F64
  cos : F64 → F64
  /-- Argument order (y, x). -/
  atan2 : F64 → F64 → F64
  log10 : F64 → F64
  toF32 : F64 → F32
deriving Inhabited

/-- Which numerics record an instance has (R6, R14, R18; assumption 4). -/
inductive NumSel
  /-- The default record NUM64 (R15). -/
  | num64
  /-- Another record, by number: an arbitrary one. -/
  | other (k : Nat)
deriving DecidableEq, Repr

/-- The implementation parameters of R6. They are plain data so that a machine state can carry the ones of its instance
(assumption 2). -/
structure Params where
  /-- NUM_RX, number of receiver slots. -/
  numRx : Nat
  /-- MAX_TAPS, largest FIR tap count. -/
  maxTaps : Nat
  /-- DEFAULT_TAPS, tap count used when ADD_RX gives A_NTAPS = 0. -/
  defaultTaps : Nat
  /-- MAX_LOG2N, largest FFT size exponent. -/
  maxLog2n : Nat
  /-- MAX_FRAME_PAIRS, capacity of FRAME_MEM in I/Q pairs. -/
  maxFramePairs : Nat
  /-- AUDIO_DEPTH, capacity of each slot's audio ring. -/
  audioDepth : Nat
  /-- RESET_LOG2N, FFT size exponent after reset. -/
  resetLog2n : Nat
  /-- RESET_THROTTLE, throttle factor after reset. -/
  resetThrottle : Nat
  /-- NUM, the numerics record. -/
  num : NumSel
deriving DecidableEq, Repr

/-- MIN_LOG2N, fixed at 1 (R6). -/
def minLog2n : Nat := 1

/-- The constraint column of R6. That of NUM, a total function of its operands in every field (R14), is the type
`Numerics`. -/
structure Params.Valid (p : Params) : Prop where
  numRx : 1 ≤ p.numRx ∧ p.numRx ≤ 16
  maxTaps : p.maxTaps % 2 = 1 ∧ 3 ≤ p.maxTaps ∧ p.maxTaps ≤ 8191
  defaultTaps : p.defaultTaps % 2 = 1 ∧ 3 ≤ p.defaultTaps ∧ p.defaultTaps ≤ p.maxTaps
  maxLog2n : 1 ≤ p.maxLog2n ∧ p.maxLog2n ≤ 16
  maxFramePairs : 2 ^ p.maxLog2n ≤ p.maxFramePairs ∧ p.maxFramePairs ≤ 524288
  audioDepth : ∃ k, k ≤ 16 ∧ p.audioDepth = 2 ^ k
  resetLog2n : minLog2n ≤ p.resetLog2n ∧ p.resetLog2n ≤ p.maxLog2n
  resetThrottle : 1 ≤ p.resetThrottle ∧ p.resetThrottle < 2 ^ 32

namespace Config

/-- FREE VALUE (R14): the numerics record of an instance whose record is not NUM64. -/
opaque numOpen : Nat → Numerics

/-- FREE VALUE (I1): `sin` where R15, R16 and R146 state no result. -/
opaque sinOpen : F64 → F64

/-- FREE VALUE (I1): `cos` where R15, R16 and R146 state no result. -/
opaque cosOpen : F64 → F64

/-- FREE VALUE (I1): `atan2` (y, x) away from its special values (R15). -/
opaque atan2Open : F64 → F64 → F64

/-- FREE VALUE (I1): `log10` away from its special values (R15, R148). -/
opaque log10Open : F64 → F64

/-- FREE VALUE (R16 P3): which of the three values within one unit in the last place of -10 is log10(AMP_FLOOR). -/
opaque log10FloorOpen : Nat

/-- FREE VALUE (I3): sign and payload of the NaN an operation gives on these operands. -/
opaque nanOpen : NumOp → F64 → F64 → BitVec 53

/-- FREE VALUE (I3): sign and payload of a NaN written to SPEC_MEM, by draw number. -/
opaque specNanOpen : Nat → BitVec 24

/-- FREE VALUE (I2): selects DEFAULT_TAPS among the odd counts from 3 to MAX_TAPS. -/
opaque defaultTapsOpen : Nat

/-- FREE VALUE (I4): the byte at an address of a memory window after power-on. -/
opaque powerOnByte : Nat → Byte

/-- FREE VALUE (I5): what a host read returns while BUSY = 1, by draw number. -/
opaque busyReadOpen : Nat → Word

/-- FREE VALUE (I6): hidden taps or delay-line contents of an EMPTY slot, by draw number. -/
opaque hiddenListOpen : Nat → List F64

/-- FREE VALUE (I6): hidden delay-line index of an EMPTY slot, by draw number. -/
opaque hiddenIndexOpen : Nat → Nat

/-- FREE VALUE (I6): hidden demodulator history of an EMPTY slot, by draw number. -/
opaque hiddenValueOpen : Nat → F64

/-- FREE VALUE (R12): `floor_nat` of a negative number, which R12 does not state. -/
opaque floorOpen : F64 → Nat

/-- FREE VALUE (R194): the phase where the wrap loop of R194 does not end within the two rounds its text allows. -/
opaque phaseOpen : F64 → F64

end Config

/-- An odd tap count from 3 to `maxTaps`, selected by an open number (R6, I2; assumption 3). -/
def openTaps (maxTaps : Nat) : Nat :=
  3 + 2 * (Config.defaultTapsOpen % ((maxTaps - 1) / 2))

/-- The defaults of R6, DEFAULT_TAPS open. -/
def Params.default : Params where
  numRx := 16
  maxTaps := 1023
  defaultTaps := openTaps 1023
  maxLog2n := 16
  maxFramePairs := 131072
  audioDepth := 16384
  resetLog2n := 11
  resetThrottle := 1
  num := .num64

end Sys2Proof
end

