-- ==== Sys2Proof/Syntax.lean ====
section
/-! DEFINITION. The thirteen commands of SFCH (R122), and the errors a command can end in (R280, R281). -/

namespace Sys2Proof

/-- A command, one constructor per row of the opcode map (R122). A slot command carries CMD[15:8] (R120, R124). -/
inductive Instr
  | nop
  | connect
  | disconnect
  | setFft
  | softReset
  | addRx (slot : BitVec 8)
  | removeRx (slot : BitVec 8)
  | retuneRx (slot : BitVec 8)
  | stopRx (slot : BitVec 8)
  | configureRx (slot : BitVec 8)
  | readTaps (slot : BitVec 8)
  | pushFrame
  | designFir
deriving DecidableEq, Repr

/-- The thirteen opcodes of R122, without their SLOT field. -/
inductive Opcode
  | nop | connect | disconnect | setFft | softReset
  | addRx | removeRx | retuneRx | stopRx | configureRx | readTaps
  | pushFrame | designFir
deriving DecidableEq, Repr

/-- Why a receiver or filter configuration is invalid: the details of BAD_CONFIG (R281). -/
inductive ConfigFault
  /-- Detail 1: bandwidth not > 0, or not finite. -/
  | bandwidth
  /-- Detail 2: outputRate not > 0, or not finite. -/
  | outputRate
  /-- Detail 3: even tap count. -/
  | evenTaps
  /-- Detail 4: tap count < 3 or > MAX_TAPS. -/
  | tapRange
  /-- Detail 5: cutoffNorm not in (0, 0.5), or NaN. -/
  | cutoff
  /-- Detail 6: demodulation mode > 5. -/
  | mode
  /-- Detail 7: the decimation factor would exceed 2^32 - 1. -/
  | decimation
  /-- Detail 8: centre frequency not finite, or channel offset outside the parent sample rate. -/
  | centre
  /-- Detail 9: degenerate tap sum. -/
  | tapSum
deriving DecidableEq, Repr

/-- What `raise Error(code, detail)` can raise (R9, R280, R281). An error ends a COMMAND, never the machine: the
command completes with the error recorded (R282). -/
inductive CmdError
  /-- BAD_OPCODE, detail 0 (R121 step 1). -/
  | badOpcode
  /-- RESERVED_FIELD, detail 1 (R121 step 2). -/
  | rsvNonzero
  /-- RESERVED_FIELD, detail 2 (R121 step 3). -/
  | slotNonzero
  /-- BAD_SLOT, detail 0 (R121 step 4). -/
  | badSlot
  /-- SLOT_IN_USE, detail 0 (R255). -/
  | slotInUse
  /-- SLOT_EMPTY, detail 0 (R202, R203, R204). -/
  | slotEmpty
  /-- BAD_CONFIG with its detail (R175, R201, R203, R255). -/
  | badConfig (why : ConfigFault)
  /-- NOT_CONNECTED, detail 0 (R203, R257). -/
  | notConnected
  /-- BAD_FRAME, detail 1 (R257). -/
  | framePairs
  /-- BAD_FRAME, detail 2 (R257). -/
  | frameRate
  /-- BAD_FRAME, detail 3 (R257). -/
  | frameCentre
  /-- BAD_FFT, detail 1 (R151). -/
  | fftSize
  /-- BAD_FFT, detail 2 (R151). -/
  | fftThrottle
  /-- BAD_WIDEBAND, detail 1 (R252). -/
  | widebandRate
  /-- BAD_WIDEBAND, detail 2 (R252). -/
  | widebandCentre
  /-- BAD_STATE, detail 1: STOP_RX on an UNCONFIGURED slot (R202). -/
  | stopUnconfigured
  /-- BAD_STATE, detail 2: READ_TAPS on an UNCONFIGURED slot (R204). -/
  | tapsUnconfigured
deriving DecidableEq, Repr

end Sys2Proof
end

