-- ==== Sys2Proof/WellFormed.lean ====
section
/-! DEFINITION. Which commands are well formed: a slot command's SLOT names one of the NUM_RX slots (R121 step 4). -/

namespace Sys2Proof

/-- The receiver slot a command names, if it is a slot command (R122). -/
def Instr.slot? : Instr → Option (BitVec 8)
  | .nop => none
  | .connect => none
  | .disconnect => none
  | .setFft => none
  | .softReset => none
  | .addRx k => some k
  | .removeRx k => some k
  | .retuneRx k => some k
  | .stopRx k => some k
  | .configureRx k => some k
  | .readTaps k => some k
  | .pushFrame => none
  | .designFir => none

/-- A command is well formed for an instance with `numRx` slots when its slot, if it has one, exists (R121 step 4). -/
def Instr.wellFormed (numRx : Nat) (i : Instr) : Bool :=
  match i.slot? with
  | none => true
  | some k => decide (k.toNat < numRx)

end Sys2Proof
end

