-- ==== Sys2Proof/Decode.lean ====
section
/-! DEFINITION. The decoder of a command word (R120 to R122, R125, R126), total on all words, rejecting by the error
R121 names, and the encoder. -/

namespace Sys2Proof

/-- OPC, bits 7:0 (R120). -/
def opcOf (w : Word) : BitVec 8 := w.extractLsb' 0 8

/-- SLOT, bits 15:8 (R120). -/
def slotOf (w : Word) : BitVec 8 := w.extractLsb' 8 8

/-- RSV, bits 31:16 (R120). -/
def rsvOf (w : Word) : BitVec 16 := w.extractLsb' 16 16

/-- The OPC column of R122. -/
def Opcode.byte : Opcode → BitVec 8
  | .nop => 0x00
  | .connect => 0x01
  | .disconnect => 0x02
  | .setFft => 0x03
  | .softReset => 0x04
  | .addRx => 0x10
  | .removeRx => 0x11
  | .retuneRx => 0x12
  | .stopRx => 0x13
  | .configureRx => 0x14
  | .readTaps => 0x15
  | .pushFrame => 0x20
  | .designFir => 0x30

/-- The rows of R122, in its order. -/
def opcodeMap : List Opcode :=
  [.nop, .connect, .disconnect, .setFft, .softReset, .addRx, .removeRx, .retuneRx, .stopRx, .configureRx, .readTaps,
    .pushFrame, .designFir]

/-- The row of R122 with this OPC, if there is one (R121 step 1). -/
def opcodeOf (b : BitVec 8) : Option Opcode := opcodeMap.find? fun o => o.byte == b

/-- The slot column of R122. -/
def Opcode.isSlot : Opcode → Bool
  | .nop => false
  | .connect => false
  | .disconnect => false
  | .setFft => false
  | .softReset => false
  | .addRx => true
  | .removeRx => true
  | .retuneRx => true
  | .stopRx => true
  | .configureRx => true
  | .readTaps => true
  | .pushFrame => false
  | .designFir => false

/-- The command of a row, with SLOT for a slot command. -/
def Opcode.instr (k : BitVec 8) : Opcode → Instr
  | .nop => .nop
  | .connect => .connect
  | .disconnect => .disconnect
  | .setFft => .setFft
  | .softReset => .softReset
  | .addRx => .addRx k
  | .removeRx => .removeRx k
  | .retuneRx => .retuneRx k
  | .stopRx => .stopRx k
  | .configureRx => .configureRx k
  | .readTaps => .readTaps k
  | .pushFrame => .pushFrame
  | .designFir => .designFir

/-- R121, in its order: the command of a word, or the error of the first check that fails. A function of the word and
NUM_RX alone (R126). -/
def decode (numRx : Nat) (w : Word) : Except CmdError Instr :=
  match opcodeOf (opcOf w) with
  | none => .error .badOpcode
  | some o =>
    if rsvOf w ≠ 0 then .error .rsvNonzero
    else if o.isSlot = false ∧ slotOf w ≠ 0 then .error .slotNonzero
    else if o.isSlot = true ∧ numRx ≤ (slotOf w).toNat then .error .badSlot
    else .ok (o.instr (slotOf w))

/-- The row of R122 a command belongs to. -/
def Instr.opcode : Instr → Opcode
  | .nop => .nop
  | .connect => .connect
  | .disconnect => .disconnect
  | .setFft => .setFft
  | .softReset => .softReset
  | .addRx _ => .addRx
  | .removeRx _ => .removeRx
  | .retuneRx _ => .retuneRx
  | .stopRx _ => .stopRx
  | .configureRx _ => .configureRx
  | .readTaps _ => .readTaps
  | .pushFrame => .pushFrame
  | .designFir => .designFir

/-- The word of a command (R120): RSV = 0, SLOT = 0 unless it is a slot command. -/
def encode (i : Instr) : Word :=
  (0 : BitVec 16) ++ (i.slot?.getD 0) ++ i.opcode.byte

/-- The command the decoder of the default instance reads from the low `nbits` bits of `w`, the bits above being 0.
A command is one word, stored whole by the CMD write (R32, R98), so its bits are the word's. -/
def decodeTableWord (nbits w : Nat) : Option Instr :=
  (decode Params.default.numRx (BitVec.ofNat 32 (w % 2 ^ nbits))).toOption

end Sys2Proof
end

