-- ==== Sys2Proof/Machine/State.lean ====
section
/-! DEFINITION. The state of SFCH as plain data: every register of 10_state.md, the hidden state of every slot (R70 to
R73), the memories of 20_memory.md, the ports (R96), and the model's own two fields. -/

namespace Sys2Proof.Machine

/-- SFCH has no fault that stops it: the spec gives every command and every bus access an outcome (R97, R282, R290), so
no step raises one and the type has no constructor. -/
inductive Fault
deriving DecidableEq, Repr

/-- Why a step has no meaning. -/
inductive Refusal
  /-- Raised by an arm of `exec` for a command that has no meaning yet; none is left. Safe: nothing follows from it. -/
  | notModelled (mnemonic : String)
deriving DecidableEq, Repr

/-- RX_STATE.ST (R51, R190). -/
inductive RxSt
  | empty | unconfigured | configured | stopped
deriving DecidableEq, Repr

/-- A demodulation mode (R45, R51). Values 6 and 7 cannot be held (R230). -/
inductive Mode
  | nfm | am | usb | lsb | cw | raw
deriving DecidableEq, Repr

/-- The registers of one slot bank (R50 to R60). RX_STATE is held as its fields; ACTIVE is derived (R51). -/
structure RxRegs where
  st : RxSt
  cfgErr : Bool
  mode : Mode
  hasTag : Bool
  hasLabel : Bool
  id : Word
  tag : Word
  label : Word
  cf : F64
  bw : F64
  outRate : F64
  offset : F64
  pcf : F64
  prate : F64
  decim : Word
  nTaps : Word
  phase : F64
  pinc : F64
  dcnt : Word
  numFault : Word
  audWptr : Word
  audRptr : Word
  audDrop : Word
  lastNout : Word
  cutoff : F64
  frames : Word
deriving DecidableEq, Repr

/-- Every register of a slot bank at its reset value (R50, R62). -/
def RxRegs.reset : RxRegs where
  st := .empty
  cfgErr := false
  mode := .nfm
  hasTag := false
  hasLabel := false
  id := 0
  tag := 0
  label := 0
  cf := 0
  bw := 0
  outRate := 0
  offset := 0
  pcf := 0
  prate := 0
  decim := 0
  nTaps := 0
  phase := 0
  pinc := 0
  dcnt := 0
  numFault := 0
  audWptr := 0
  audRptr := 0
  audDrop := 0
  lastNout := 0
  cutoff := 0
  frames := 0

/-- The hidden DSP state of a slot (R70 to R73). -/
structure RxHidden where
  taps : List F64
  dlI : List F64
  dlQ : List F64
  dlW : Nat
  iPrev : F64
  qPrev : F64
deriving DecidableEq, Repr

/-- The hidden state at power-on. DESIGN CHOICE: the spec leaves it unspecified (R75, I6; assumption 9). -/
def RxHidden.reset : RxHidden where
  taps := []
  dlI := []
  dlQ := []
  dlW := 0
  iPrev := 0
  qPrev := 0

/-- One receiver slot S[s]. -/
structure RxSlot where
  regs : RxRegs
  hidden : RxHidden
deriving DecidableEq, Repr

/-- An EMPTY slot at power-on. -/
def RxSlot.reset : RxSlot where
  regs := RxRegs.reset
  hidden := RxHidden.reset

/-- STATUS (R33), as its fields. -/
structure Status where
  busy : Bool
  connected : Bool
  err : Bool
  errCode : BitVec 8
  errDetail : BitVec 8
deriving DecidableEq, Repr

/-- The argument registers A_x (R43 to R45). -/
structure ArgRegs where
  cf : F64
  rate : F64
  bw : F64
  outRate : F64
  cutoff : F64
  nTaps : Word
  mode : Word
  id : Word
  tag : Word
  label : Word
  flags : BitVec 2
  log2n : Word
  throttle : Word
deriving DecidableEq, Repr

/-- The frame descriptor registers F_x (R46). -/
structure FrameRegs where
  nPairs : Word
  rate : F64
  cf : F64
  ts : BitVec 64
deriving DecidableEq, Repr

/-- The spectrum descriptor registers SPEC_x (R47). -/
structure SpecRegs where
  seq : Word
  n : Word
  cf : F64
  rate : F64
  ts : BitVec 64
deriving DecidableEq, Repr

/-- The ten events that set an IP bit, bit 0 first (R37, R289). -/
inductive Event
  | cmdDone | specReady | audio | audOvf | numFault | cfgFault | hazard | busErr | cmdErr | stateChange
deriving DecidableEq, Repr

/-- What can happen to the block from outside, in the total order of R101. -/
inductive HostEvent
  /-- `MemRead(addr, 4)` (R96). -/
  | read (addr : Addr)
  /-- `MemWrite(addr, 4, v)` (R96). -/
  | write (addr : Addr) (v : Word)
  /-- The RST port is asserted (R310). -/
  | rst
  /-- The engine takes its command step here, if it is enabled (R250, I14). -/
  | engine
deriving DecidableEq, Repr

/-- The memory windows as one list of (byte address, byte), addresses strictly rising. An unlisted address is one that
nothing has written since power-on (R312). -/
abbrev Memory := List Host.Cell

/-- The canonical form: addresses strictly rising, so each at most once. An unlisted address reads as "not written",
which no entry equals (assumption 8). -/
abbrev Memory.wf (m : Memory) : Prop := m.Pairwise fun x y => x.1 < y.1

/-- The whole machine. -/
structure State where
  /-- The parameters of this instance (R6), read through PARAM0 to PARAM2 (R31); no step changes them. -/
  params : Params
  /-- CMD (R32). -/
  cmd : Word
  /-- STATUS (R33). -/
  status : Status
  /-- RESULT (R34). -/
  result : Word
  /-- CMD_SEQ (R35). -/
  cmdSeq : Word
  /-- IE (R36), its ten writable bits. -/
  ie : BitVec 10
  /-- IP (R37), its ten bits. -/
  ip : BitVec 10
  /-- FFT_LOG2N (R38). -/
  fftLog2n : BitVec 5
  /-- THROTTLE (R38). -/
  throttle : Word
  /-- THR_CNT (R38). -/
  thrCnt : Word
  /-- FRAME_COUNT (R39). -/
  frameCount : Word
  /-- WB_CF (R40). -/
  wbCf : F64
  /-- WB_RATE (R40). -/
  wbRate : F64
  /-- TAPS_N (R42). -/
  tapsN : Word
  /-- The argument registers (R43). -/
  args : ArgRegs
  /-- The frame descriptor (R46). -/
  frame : FrameRegs
  /-- The spectrum descriptor (R47). -/
  spec : SpecRegs
  /-- S[0 .. NUM_RX-1] (R50). -/
  slots : List RxSlot
  /-- TAP_MEM, SPEC_MEM, FRAME_MEM and the AUD_MEM windows (R90). -/
  mem : Memory
  /-- HRDATA (R96): what the last read returned. -/
  hrdata : Word
  /-- HERR (R96): whether the last access was rejected. -/
  herr : Bool
  /-- The MODEL's own: what is still to come from outside, first first (assumption 1). -/
  hostEvents : List HostEvent
  /-- The MODEL's own: how many unspecified values have been drawn (R18; assumption 22). -/
  drawCount : Nat
deriving DecidableEq, Repr

/-- The state after power-on of an instance with the given parameters (R76, R310, R311). -/
def State.powerOn (p : Params) : State where
  params := p
  cmd := 0
  status := ⟨false, false, false, 0, 0⟩
  result := 0
  cmdSeq := 0
  ie := 0
  ip := 0
  fftLog2n := BitVec.ofNat 5 p.resetLog2n
  throttle := BitVec.ofNat 32 p.resetThrottle
  thrCnt := 0
  frameCount := 0
  wbCf := 0
  wbRate := 0
  tapsN := 0
  args := ⟨0, 0, 0, 0, 0, 0, 0, 0, 0, 0, 0, 0, 0⟩
  frame := ⟨0, 0, 0, 0⟩
  spec := ⟨0, 0, 0, 0, 0⟩
  slots := List.replicate p.numRx RxSlot.reset
  mem := []
  hrdata := 0
  herr := false
  hostEvents := []
  drawCount := 0

/-- The machine right after reset, the instance with the default parameters (R6, R311). -/
def State.reset : State := State.powerOn Params.default

end Sys2Proof.Machine
end

