-- ==== Sys2Proof/Machine/Flags.lean ====
section
/-! DEFINITION. The flags of R77: the IP bits and IRQ (R37, R288), the error codes (R280, R281), and the STATUS and
RX_STATE words as a host reads them (R33, R51). -/

namespace Sys2Proof.Machine

/-- The bit of an event in IP and IE (R37). -/
def Event.bit : Event → Nat
  | .cmdDone => 0
  | .specReady => 1
  | .audio => 2
  | .audOvf => 3
  | .numFault => 4
  | .cfgFault => 5
  | .hazard => 6
  | .busErr => 7
  | .cmdErr => 8
  | .stateChange => 9

/-- IP with the bit of an event set; the other bits stay (R291: sticky). -/
def ipSet (e : Event) (ip : BitVec 10) : BitVec 10 := ip ||| (1#10 <<< e.bit)

/-- IP with the bit of an event set when `c` holds. -/
def ipSetIf (c : Bool) (e : Event) (ip : BitVec 10) : BitVec 10 := if c then ipSet e ip else ip

/-- The host's write of `v` to IP: a bit written as 1 is cleared (R37). -/
def ipClear (v : Word) (ip : BitVec 10) : BitVec 10 := ip &&& ~~~(v.setWidth 10)

/-- IRQ, the level of the interrupt output (R288). -/
def State.irq (s : State) : Bool := s.ie &&& s.ip != 0

/-- An event happens. -/
def State.raise (e : Event) (s : State) : State := { s with ip := ipSet e s.ip }

/-- The host handles events: the nearest thing SFCH has to a return from an exception (R291). -/
def State.clearIp (v : Word) (s : State) : State := { s with ip := ipClear v s.ip }

/-- The details of BAD_CONFIG (R281). -/
def configDetail : ConfigFault → BitVec 8
  | .bandwidth => 1
  | .outputRate => 2
  | .evenTaps => 3
  | .tapRange => 4
  | .cutoff => 5
  | .mode => 6
  | .decimation => 7
  | .centre => 8
  | .tapSum => 9

/-- ERRCODE (R280). -/
def errCode : CmdError → BitVec 8
  | .badOpcode => 1
  | .rsvNonzero => 2
  | .slotNonzero => 2
  | .badSlot => 3
  | .slotInUse => 4
  | .slotEmpty => 5
  | .badConfig _ => 6
  | .notConnected => 7
  | .framePairs => 8
  | .frameRate => 8
  | .frameCentre => 8
  | .fftSize => 9
  | .fftThrottle => 9
  | .widebandRate => 10
  | .widebandCentre => 10
  | .stopUnconfigured => 11
  | .tapsUnconfigured => 11

/-- ERRDETAIL (R281). -/
def errDetail : CmdError → BitVec 8
  | .badOpcode => 0
  | .rsvNonzero => 1
  | .slotNonzero => 2
  | .badSlot => 0
  | .slotInUse => 0
  | .slotEmpty => 0
  | .badConfig why => configDetail why
  | .notConnected => 0
  | .framePairs => 1
  | .frameRate => 2
  | .frameCentre => 3
  | .fftSize => 1
  | .fftThrottle => 2
  | .widebandRate => 1
  | .widebandCentre => 2
  | .stopUnconfigured => 1
  | .tapsUnconfigured => 2

/-- One flag as a field of one bit. -/
def bitOf (b : Bool) : BitVec 1 := BitVec.ofBool b

/-- STATUS as a host reads it (R33). -/
def Status.word (t : Status) : Word :=
  (0 : BitVec 8) ++ t.errDetail ++ t.errCode ++ (0 : BitVec 5) ++ bitOf t.err ++ bitOf t.connected ++ bitOf t.busy

/-- The values of RX_STATE.ST (R51). -/
def RxSt.code : RxSt → BitVec 2
  | .empty => 0
  | .unconfigured => 1
  | .configured => 2
  | .stopped => 3

/-- RX_STATE.ACTIVE: 1 when ST is UNCONFIGURED or CONFIGURED (R51). -/
def RxSt.active : RxSt → Bool
  | .empty => false
  | .unconfigured => true
  | .configured => true
  | .stopped => false

/-- The numbers of the modes (R45). -/
def Mode.code : Mode → BitVec 3
  | .nfm => 0
  | .am => 1
  | .usb => 2
  | .lsb => 3
  | .cw => 4
  | .raw => 5

/-- RX_STATE as a host reads it (R51). -/
def RxRegs.stateWord (r : RxRegs) : Word :=
  (0 : BitVec 22) ++ bitOf r.hasLabel ++ bitOf r.hasTag ++ (0 : BitVec 1) ++ r.mode.code ++ bitOf r.cfgErr
    ++ bitOf r.st.active ++ r.st.code

/-- A saturating 32-bit count (R58, R59). -/
def satInc (w : Word) : Word := if w = 0xFFFFFFFF then w else w + 1

end Sys2Proof.Machine
end

