-- ==== Sys2Proof/Machine/Num.lean ====
section
/-! DEFINITION. Binary64 and binary32 arithmetic: the comparisons and exact conversions of R12, the constants of R13, and
NUM64 (R15), whose basic operations are exact integer arithmetic followed by one rounding to nearest, ties to even. -/

namespace Sys2Proof.Machine

/-! ## Fields and classes of an encoding -/

/-- The encoding without its sign bit, as a number. -/
def f64Abs63 (x : F64) : Nat := x.toNat % 2 ^ 63

/-- The sign bit. -/
def f64Neg? (x : F64) : Bool := decide (2 ^ 63 ≤ x.toNat)

/-- The encoding of +infinity, as a number. -/
def f64InfBits : Nat := 2047 * 2 ^ 52

def f64IsNaN (x : F64) : Bool := decide (f64InfBits < f64Abs63 x)

def f64IsInf (x : F64) : Bool := decide (f64Abs63 x = f64InfBits)

/-- R12: neither an infinity nor a NaN. -/
def f64IsFinite (x : F64) : Bool := decide (f64Abs63 x < f64InfBits)

def f64IsZero (x : F64) : Bool := decide (f64Abs63 x = 0)

/-- The encoding with the given sign and sign-less part. -/
def f64Pack (neg : Bool) (mag : Nat) : F64 := BitVec.ofNat 64 ((if neg then 2 ^ 63 else 0) + mag)

/-- Unary minus flips the sign bit (R11). -/
def f64Flip (x : F64) : F64 := x ^^^ 0x8000000000000000

/-- `abs` of R191, which clears the sign bit. -/
def f64Abs (x : F64) : F64 := f64Pack false (f64Abs63 x)

/-- The magnitude of a finite datum in units of 2^-1074, exact. -/
def f64Mag (x : F64) : Nat :=
  let e := f64Abs63 x / 2 ^ 52
  let f := f64Abs63 x % 2 ^ 52
  if e = 0 then f else (2 ^ 52 + f) * 2 ^ (e - 1)

/-- A finite datum in units of 2^-1074, exact. -/
def f64Int (x : F64) : Int := if f64Neg? x then -(f64Mag x : Int) else f64Mag x

/-! ## Comparisons (R12) -/

/-- A number in the order of the non-NaN data, with +0.0 and -0.0 at the same place. -/
def f64Key (x : F64) : Int := if f64Neg? x then -(f64Abs63 x : Int) else f64Abs63 x

def f64Lt (a b : F64) : Bool := !f64IsNaN a && !f64IsNaN b && decide (f64Key a < f64Key b)

def f64Le (a b : F64) : Bool := !f64IsNaN a && !f64IsNaN b && decide (f64Key a ≤ f64Key b)

/-- `a != b`: true on a NaN operand. -/
def f64Ne (a b : F64) : Bool := f64IsNaN a || f64IsNaN b || decide (f64Key a ≠ f64Key b)

/-- `isFinite(x) and x > 0.0`, the check of R252, R255 and R257. -/
def f64FinitePos (x : F64) : Bool := f64IsFinite x && f64Lt 0 x

/-! ## Rounding -/

/-- The encoding nearest to `num / den` units of the least subnormal, ties to even, in a format of `p` significand bits
whose infinity is encoded `inf`. In every binade the encoding counts units in the last place, so rounding up past the
binade, or past the largest finite value, gives the next encoding (R15). -/
def roundNearest (p inf num den : Nat) : Nat :=
  let k := Nat.log2 (num / den) + 1 - p
  let d := den * 2 ^ k
  let q := num / d
  let r := num % d
  let q' := if d < 2 * r ∨ 2 * r = d ∧ q % 2 = 1 then q + 1 else q
  min (k * 2 ^ (p - 1) + q') inf

/-- Rounding to binary64 of `num / den` units of 2^-1074. -/
def f64Round (neg : Bool) (num den : Nat) : F64 := f64Pack neg (roundNearest 53 f64InfBits num den)

/-- The binary64 value nearest to `a / b` (R13). -/
def f64OfRatio (a b : Nat) : F64 := f64Round false (a * 2 ^ 1074) b

/-- `f64(n)` of R10. -/
def f64OfNat (n : Nat) : F64 := f64OfRatio n 1

/-- `floor_nat(x)` of R12, which states it for x >= 0; of a negative `x` it is open, below 2^32 (assumption 23). -/
def floorNat (x : F64) : Nat := if f64Lt x 0 then Config.floorOpen x % 2 ^ 32 else f64Mag x / 2 ^ 1074

/-! ## Binary32 -/

/-- The encoding of binary32 +infinity, as a number. -/
def f32InfBits : Nat := 255 * 2 ^ 23

/-- `isFinite` on binary32. -/
def f32IsFinite (x : F32) : Bool := decide (x.toNat % 2 ^ 31 < f32InfBits)

/-- `f64_of_f32(x)` of R12, exact. A NaN keeps its sign and the leading bits of its payload. -/
def f64OfF32 (x : F32) : F64 :=
  let neg := decide (2 ^ 31 ≤ x.toNat)
  let e := x.toNat / 2 ^ 23 % 256
  let f := x.toNat % 2 ^ 23
  if e = 255 then f64Pack neg (f64InfBits + f * 2 ^ 29)
  else f64Round neg ((if e = 0 then f else (2 ^ 23 + f) * 2 ^ (e - 1)) * 2 ^ 925) 1

/-- A binary32 NaN with an open sign and payload (I3). -/
def f32NaNOf (d : BitVec 24) : F32 :=
  let f := d.extractLsb' 0 23
  d.extractLsb' 23 1 ++ (0xFF : BitVec 8) ++ (if f = 0 then 0x400000 else f)

/-! ## NUM64 (R15) -/

/-- The NaN an operation gives on these operands, its sign and payload open (I3; assumption 7). -/
def f64NaN (op : NumOp) (a b : F64) : F64 :=
  let d := Config.nanOpen op a b
  let f := d.extractLsb' 0 52
  d.extractLsb' 52 1 ++ (0x7FF : BitVec 11) ++ (if f = 0 then 0x8000000000000 else f)

/-- The sum of two data; `op` names the operation whose NaN it may be. -/
def f64Sum (op : NumOp) (a b : F64) : F64 :=
  if f64IsNaN a || f64IsNaN b then f64NaN op a b
  else if f64IsInf a then
    if f64IsInf b && (f64Neg? a != f64Neg? b) then f64NaN op a b else a
  else if f64IsInf b then b
  else
    let t := f64Int a + f64Int b
    if t = 0 then f64Pack (f64Neg? a && f64Neg? b) 0 else f64Round (decide (t < 0)) t.natAbs 1

def f64Add (a b : F64) : F64 := f64Sum .add a b

def f64Sub (a b : F64) : F64 := f64Sum .sub a (f64Flip b)

def f64Mul (a b : F64) : F64 :=
  let neg := f64Neg? a != f64Neg? b
  if f64IsNaN a || f64IsNaN b then f64NaN .mul a b
  else if f64IsInf a || f64IsInf b then
    if f64IsZero a || f64IsZero b then f64NaN .mul a b else f64Pack neg f64InfBits
  else f64Round neg (f64Mag a * f64Mag b) (2 ^ 1074)

def f64Div (a b : F64) : F64 :=
  let neg := f64Neg? a != f64Neg? b
  if f64IsNaN a || f64IsNaN b then f64NaN .div a b
  else if f64IsInf a then
    if f64IsInf b then f64NaN .div a b else f64Pack neg f64InfBits
  else if f64IsInf b then f64Pack neg 0
  else if f64IsZero b then
    if f64IsZero a then f64NaN .div a b else f64Pack neg f64InfBits
  else f64Round neg (f64Mag a * 2 ^ 1074) (f64Mag b)

/-- The floor of the square root of `n`, for `n` below `2 ^ (2 * bits)`, one result bit a round. -/
def isqrt (n : Nat) : Nat → Nat → Nat
  | 0, r => r
  | b + 1, r => isqrt n b (if (r + 2 ^ b) * (r + 2 ^ b) ≤ n then r + 2 ^ b else r)

/-- Square root (R15): with the magnitude written m·2^t in units of 2^-2148, the root of m·2^(t mod 2 + 120) has more
than the 53 bits rounding needs, and one sticky bit says whether it is exact. -/
def f64Sqrt (x : F64) : F64 :=
  if f64IsNaN x then f64NaN .sqrt x x
  else if f64IsZero x then x
  else if f64Neg? x then f64NaN .sqrt x x
  else if f64IsInf x then x
  else
    let e := f64Abs63 x / 2 ^ 52
    let f := f64Abs63 x % 2 ^ 52
    let m := if e = 0 then f else 2 ^ 52 + f
    let t := (e - 1) + 1074
    let n := m * 2 ^ (t % 2 + 120)
    let r := isqrt n 88 0
    f64Round false ((2 * r + (if r * r = n then 0 else 1)) * 2 ^ (t / 2 - 60)) 2

/-- `toF32` (R15): nearest, ties to even; beyond the binary32 range an infinity. -/
def f64ToF32 (x : F64) : F32 :=
  if f64IsNaN x then f32NaNOf ((Config.nanOpen .toF32 x x).extractLsb' 0 24)
  else
    let mag := if f64IsInf x then f32InfBits else roundNearest 24 f32InfBits (f64Mag x) (2 ^ 925)
    BitVec.ofNat 32 ((if f64Neg? x then 2 ^ 31 else 0) + mag)

/-! ## Constants (R13) -/

/-- PI. -/
def f64Pi : F64 := 0x400921FB54442D18

/-- TWO_PI. -/
def f64TwoPi : F64 := 0x401921FB54442D18

/-- AMP_FLOOR, 1e-10. -/
def ampFloor : F64 := 0x3DDB7CDFD9D7BDBB

/-- DB_SCALE, 20.0. -/
def dbScale : F64 := 0x4034000000000000

def bhA0 : F64 := f64OfRatio 35875 100000
def bhA1 : F64 := f64OfRatio 48829 100000
def bhA2 : F64 := f64OfRatio 14128 100000
def bhA3 : F64 := f64OfRatio 1168 100000

/-- 1.0. -/
def f64One : F64 := 0x3FF0000000000000

/-- -1.0. -/
def f64MinusOne : F64 := 0xBFF0000000000000

/-- 0.5. -/
def f64Half : F64 := 0x3FE0000000000000

/-- 2.0. -/
def f64Two : F64 := 0x4000000000000000

/-- 3.0. -/
def f64Three : F64 := 0x4008000000000000

/-- 4294967296.0, the bound of R191. -/
def f64TwoPow32 : F64 := 0x41F0000000000000

/-- 3·PI as R140 computes it, `3.0 * PI` (R16 P2). -/
def f64ThreePi : F64 := f64Mul f64Three f64Pi

/-- PI/2 (R16 P2). -/
def f64HalfPi : F64 := 0x3FF921FB54442D18

/-- The binary64 value nearest to π/4 (assumption 6). -/
def f64QuarterPi : F64 := 0x3FE921FB54442D18

/-- The binary64 value nearest to 3π/4 (assumption 6). -/
def f64ThreeQuarterPi : F64 := 0x4002D97C7F3321D2

/-! ## The transcendental functions (R15, R16): open but for the values the spec states -/

/-- P2: sin(+0) = +0 and sin(PI/2) = 1; sin(-0.0) = -0.0 by R146 (assumption 5). -/
def f64Sin (x : F64) : F64 :=
  if f64IsZero x then x else if x = f64HalfPi then f64One else Config.sinOpen x

/-- P2: cos(+0) = 1, cos(PI) = -1, cos(TWO_PI) = 1, cos(3·PI) = -1; cos(-0.0) = 1 by R146 (assumption 5). -/
def f64Cos (x : F64) : F64 :=
  if f64IsZero x then f64One
  else if x = f64Pi then f64MinusOne
  else if x = f64TwoPi then f64One
  else if x = f64ThreePi then f64MinusOne
  else Config.cosOpen x

/-- `v` with the sign of `y`. -/
def f64CopySign (v y : F64) : F64 := f64Pack (f64Neg? y) (f64Abs63 v)

/-- The special values of R15; those at infinities are C99's, which R15 names (assumption 6). -/
def f64Atan2 (y x : F64) : F64 :=
  if f64IsNaN y || f64IsNaN x then f64NaN .atan2 y x
  else if f64IsZero y then if f64Neg? x then f64CopySign f64Pi y else y
  else if f64IsZero x then f64CopySign f64HalfPi y
  else if f64IsInf y then
    if f64IsInf x then f64CopySign (if f64Neg? x then f64ThreeQuarterPi else f64QuarterPi) y
    else f64CopySign f64HalfPi y
  else if f64IsInf x then f64CopySign (if f64Neg? x then f64Pi else 0) y
  else Config.atan2Open y x

/-- log10(+0) = -infinity, a negative number or NaN gives a NaN (R15), +infinity gives +infinity (R148), and
log10(AMP_FLOOR) is within one unit in the last place of -10 (P3): one of 0xC023FFFFFFFFFFFF, -10, 0xC024000000000001. -/
def f64Log10 (x : F64) : F64 :=
  if f64IsNaN x then f64NaN .log10 x x
  else if x = 0 then f64Pack true f64InfBits
  else if f64Neg? x && !f64IsZero x then f64NaN .log10 x x
  else if f64IsInf x then x
  else if x = ampFloor then BitVec.ofNat 64 (0xC023FFFFFFFFFFFF + Config.log10FloorOpen % 3)
  else Config.log10Open x

/-- NUM64 (R15). -/
def num64 : Numerics where
  add := f64Add
  sub := f64Sub
  mul := f64Mul
  div := f64Div
  sqrt := f64Sqrt
  sin := f64Sin
  cos := f64Cos
  atan2 := f64Atan2
  log10 := f64Log10
  toF32 := f64ToF32

end Sys2Proof.Machine

namespace Sys2Proof

/-- The numerics record NUM of an instance (R6, R14). -/
def NumSel.record : NumSel → Numerics
  | .num64 => Machine.num64
  | .other k => Config.numOpen k

end Sys2Proof
end

