-- ==== Sys2Proof/Machine/Ops.lean ====
section
/-! DEFINITION. The named operations over memory, slots and draws; a command's completion and error completion (R250,
R282), the nearest thing SFCH has to taking an exception (R290); the register reset (R311); and fetching the command
word. -/

namespace Sys2Proof.Machine

/-! ## Numerics -/

/-- NUM, the record every floating-point result of this instance is computed through (R14, R18). -/
def State.num (s : State) : Numerics := s.params.num.record

/-! ## Memory (R90 to R95, R98) -/

/-- Base of TAP_MEM (R90). -/
def tapBase : Nat := 0x010000

/-- Base of SPEC_MEM (R90). -/
def specBase : Nat := 0x100000

/-- Base of FRAME_MEM (R90). -/
def frameBase : Nat := 0x200000

/-- Base of the AUD_MEM window of slot `k` (R90). -/
def audBase (k : Nat) : Nat := 0x800000 + 0x40000 * k

/-- The byte written last at an address, if any was. -/
def memFind : Memory → Nat → Option Byte
  | [], _ => none
  | (k, v) :: m, a => if k = a then some v else memFind m a

/-- What an address reads as: the byte written last, or the power-on draw (R312, I4). -/
def memRead8 (m : Memory) (a : Nat) : Byte := (memFind m a).getD (Config.powerOnByte a)

/-- A byte is written; the list stays in rising order. -/
def memWrite8 : Memory → Nat → Byte → Memory
  | [], a, b => [(a, b)]
  | (k, v) :: m, a, b =>
    if a < k then (a, b) :: (k, v) :: m
    else if a = k then (a, b) :: m
    else (k, v) :: memWrite8 m a b

/-- The word at a byte address, little-endian (R98). -/
def memRead32 (m : Memory) (a : Nat) : Word :=
  memRead8 m (a + 3) ++ memRead8 m (a + 2) ++ memRead8 m (a + 1) ++ memRead8 m a

/-- A word is written at a byte address, little-endian (R98). -/
def memWrite32 (m : Memory) (a : Nat) (w : Word) : Memory :=
  memWrite8 (memWrite8 (memWrite8 (memWrite8 m a (w.extractLsb' 0 8)) (a + 1) (w.extractLsb' 8 8)) (a + 2)
    (w.extractLsb' 16 8)) (a + 3) (w.extractLsb' 24 8)

/-- A 64-bit value is written as two words, low word first in address order (R92, R98, R177). -/
def memWrite64 (m : Memory) (a : Nat) (x : F64) : Memory :=
  memWrite32 (memWrite32 m a (x.extractLsb' 0 32)) (a + 4) (x.extractLsb' 32 32)

/-- The 64-bit value at a byte address (R92, R98). -/
def memRead64 (m : Memory) (a : Nat) : F64 := memRead32 m (a + 4) ++ memRead32 m a

/-- Consecutive words are written. -/
def memWriteWords (m : Memory) (a : Nat) : List Word → Memory
  | [] => m
  | w :: ws => memWriteWords (memWrite32 m a w) (a + 4) ws

/-- Consecutive 64-bit values are written. -/
def memWriteDoubles (m : Memory) (a : Nat) : List F64 → Memory
  | [] => m
  | x :: xs => memWriteDoubles (memWrite64 m a x) (a + 8) xs

/-- TAPM[n] <- taps[n] for every n (R177, R204). -/
def writeTaps (m : Memory) (taps : List F64) : Memory := memWriteDoubles m tapBase taps

/-- FRAME[i] (R94). -/
def frameWord (m : Memory) (i : Nat) : F32 := memRead32 m (frameBase + 4 * i)

/-- The I value of pair `j`, widened (R94, R100). -/
def frameI (m : Memory) (j : Nat) : F64 := f64OfF32 (frameWord m (2 * j))

/-- The Q value of pair `j`, widened (R94, R100). -/
def frameQ (m : Memory) (j : Nat) : F64 := f64OfF32 (frameWord m (2 * j + 1))

/-! ## 64-bit registers on a 32-bit bus (R49) -/

/-- The half of a 64-bit register a word offset selects. -/
def half (hi : Bool) (x : BitVec 64) : Word := if hi then x.extractLsb' 32 32 else x.extractLsb' 0 32

/-- A 64-bit register after a write of one half. -/
def setHalf (hi : Bool) (v : Word) (x : BitVec 64) : BitVec 64 :=
  if hi then v ++ x.extractLsb' 0 32 else x.extractLsb' 32 32 ++ v

/-! ## Slots -/

/-- S[k] <- x. -/
def State.setSlot (k : Nat) (x : RxSlot) (s : State) : State := { s with slots := s.slots.set k x }

/-- RESULT <- w. -/
def State.setResult (w : Word) (s : State) : State := { s with result := w }

/-- TAPM[n] <- taps[n] for every n and TAPS_N <- w (R175, R204). -/
def State.putTaps (taps : List F64) (w : Word) (s : State) : State :=
  { s with mem := writeTaps s.mem taps, tapsN := w }

/-- A slot command acts on S[k]; a slot that does not exist is BAD_SLOT, as the decoder says (R121 step 4;
assumption 15). -/
def withSlot (k : BitVec 8) (s : State) (f : RxSlot → Except CmdError State) : Except CmdError State :=
  match s.slots[k.toNat]? with
  | none => .error .badSlot
  | some x => f x

/-! ## Draws -/

/-- Unspecified hidden state (R75, I6), by draw number. -/
def hiddenDraw (n : Nat) : RxHidden where
  taps := Config.hiddenListOpen (3 * n)
  dlI := Config.hiddenListOpen (3 * n + 1)
  dlQ := Config.hiddenListOpen (3 * n + 2)
  dlW := Config.hiddenIndexOpen n
  iPrev := Config.hiddenValueOpen (2 * n)
  qPrev := Config.hiddenValueOpen (2 * n + 1)

/-- A slot with every register at its reset value and its hidden state unspecified (R62, R75). -/
def clearedSlot (n : Nat) : RxSlot := ⟨RxRegs.reset, hiddenDraw n⟩

/-! ## Reset (R311, R312) -/

/-- Every register takes its reset value; memory is kept. The ports and the model's own fields stay, and the hidden
state of every slot is drawn. -/
def State.resetRegisters (s : State) : State :=
  { State.powerOn s.params with
    slots := (List.range s.params.numRx).map fun k => clearedSlot (s.drawCount + k)
    mem := s.mem
    hrdata := s.hrdata
    herr := s.herr
    hostEvents := s.hostEvents
    drawCount := s.drawCount + s.params.numRx }

/-! ## Completion of a command (R250, R282) -/

/-- The tuple whose change STATE_CHANGE reports (R289). -/
def State.stTuple (s : State) : Bool × List RxSt := (s.status.connected, s.slots.map fun x => x.regs.st)

/-- ERRCODE of a completion: 0 without an error (R280). -/
def codeOf : Option CmdError → BitVec 8
  | none => 0
  | some e => errCode e

/-- ERRDETAIL of a completion. -/
def detailOf : Option CmdError → BitVec 8
  | none => 0
  | some e => errDetail e

/-- IP after a completion. -/
def completeIp (e : Option CmdError) (changed : Bool) (ip : BitVec 10) : BitVec 10 :=
  ipSet .cmdDone (ipSetIf changed .stateChange (ipSetIf e.isSome .cmdErr ip))

/-- `complete(code, detail, st0)` of R250. -/
def State.complete (e : Option CmdError) (st0 : Bool × List RxSt) (s : State) : State :=
  { s with
    status :=
      { busy := false, connected := s.status.connected, err := e.isSome, errCode := codeOf e, errDetail := detailOf e }
    result := if e.isSome then 0 else s.result
    cmdSeq := s.cmdSeq + 1
    ip := completeIp e (s.stTuple != st0) s.ip }

/-- `raise Error(code, detail)`: the command has changed nothing, and completes with the error (R250, R282). -/
def State.raiseError (e : CmdError) (s : State) : State := s.complete (some e) s.stTuple

/-- The command step around a command's rule (R250): its errors and its completion. -/
def runCommand (body : State → Except CmdError State) (s : State) : State :=
  match body s with
  | .ok t => t.complete none s.stTuple
  | .error e => s.raiseError e

/-! ## Fetch -/

/-- The command in CMD (R121, R250). -/
def fetchCommand (s : State) : Except CmdError Instr := decode s.params.numRx s.cmd

/-- The word of a command placed in CMD with BUSY = 1, as the CMD write that issues it does (R32), and the engine's step
next (R101). -/
def State.issue (w : Word) (s : State) : State :=
  { s with cmd := w, status := { s.status with busy := true }, hostEvents := [] }

end Sys2Proof.Machine
end

