-- ==== Sys2Proof/Machine/Operands.lean ====
section
/-! DEFINITION. Operand assembly (R123, R124): what a command reads from the argument and descriptor registers. -/

namespace Sys2Proof.Machine

/-- A_MODE as a mode; none for a value >= 6 (R45). -/
def modeOf (w : Word) : Option Mode :=
  if w = 0 then some .nfm
  else if w = 1 then some .am
  else if w = 2 then some .usb
  else if w = 3 then some .lsb
  else if w = 4 then some .cw
  else if w = 5 then some .raw
  else none

/-- A_FLAGS.HAS_TAG (R44). -/
def ArgRegs.hasTag (a : ArgRegs) : Bool := a.flags.getLsbD 0

/-- A_FLAGS.HAS_LABEL (R44). -/
def ArgRegs.hasLabel (a : ArgRegs) : Bool := a.flags.getLsbD 1

/-- The tap count T of ADD_RX: DEFAULT_TAPS when A_NTAPS = 0 (R255). -/
def addTapCount (p : Params) (a : ArgRegs) : Nat := if a.nTaps = 0 then p.defaultTaps else a.nTaps.toNat

/-- N = 2^FFT_LOG2N (R143). -/
def State.fftSize (s : State) : Nat := 2 ^ s.fftLog2n.toNat

/-- SPEC_EFF as computed on a read (R41). -/
def specEff (N : Numerics) (s : State) : F64 := N.div s.wbRate (f64OfNat (s.fftSize * s.throttle.toNat))

end Sys2Proof.Machine
end

