-- ==== Sys2Proof/Machine/Bus.lean ====
section
/-! DEFINITION. The host's side: the address map (R90), the register map (10_state.md), bus reads and writes with their
rejections, hazards and draws (R97, R107, R315), and the RST port (R310). -/

namespace Sys2Proof.Machine

/-! ## The register map -/

/-- A register of a slot bank; `hi` selects the high half of a 64-bit one (R49, R50). -/
inductive SlotReg
  | state | id | tag | label
  | cf (hi : Bool) | bw (hi : Bool) | outRate (hi : Bool) | offset (hi : Bool) | pcf (hi : Bool) | prate (hi : Bool)
  | decim | nTaps
  | phase (hi : Bool) | pinc (hi : Bool)
  | dcnt | numFault | audWptr | audRptr | audDrop | lastNout
  | cutoff (hi : Bool)
  | frames
deriving DecidableEq, Repr

/-- What a CSR offset selects (10_state.md section 2). -/
inductive Csr
  | id | version | param0 | param1 | param2
  | cmd | status | result | cmdSeq | ie | ip | fftLog2n | throttle | thrCnt | frameCount
  | wbCf (hi : Bool) | wbRate (hi : Bool) | specEff (hi : Bool) | tapsN
  | aCf (hi : Bool) | aRate (hi : Bool) | aBw (hi : Bool) | aOutRate (hi : Bool) | aCutoff (hi : Bool)
  | aNTaps | aMode | aId | aTag | aLabel | aFlags | aLog2n | aThrottle
  | fNPairs | fRate (hi : Bool) | fCf (hi : Bool) | fTs (hi : Bool)
  | specSeq | specN | specCf (hi : Bool) | specRate (hi : Bool) | specTs (hi : Bool)
  /-- A register of slot bank `k`. -/
  | slot (k : Nat) (r : SlotReg)
  /-- No register (R48). -/
  | reserved
deriving DecidableEq, Repr

/-- The global register map, by byte offset (10_state.md section 2). -/
def globalMap : List (Nat × Csr) :=
  [(0x000, .id), (0x004, .version), (0x008, .param0), (0x00C, .param1), (0x010, .param2),
   (0x018, .cmd), (0x01C, .status), (0x020, .result), (0x024, .cmdSeq), (0x028, .ie), (0x02C, .ip),
   (0x030, .fftLog2n), (0x034, .throttle), (0x038, .thrCnt), (0x03C, .frameCount),
   (0x040, .wbCf false), (0x044, .wbCf true), (0x048, .wbRate false), (0x04C, .wbRate true),
   (0x050, .specEff false), (0x054, .specEff true), (0x058, .tapsN),
   (0x080, .aCf false), (0x084, .aCf true), (0x088, .aRate false), (0x08C, .aRate true),
   (0x090, .aBw false), (0x094, .aBw true), (0x098, .aOutRate false), (0x09C, .aOutRate true),
   (0x0A0, .aCutoff false), (0x0A4, .aCutoff true), (0x0A8, .aNTaps), (0x0AC, .aMode), (0x0B0, .aId), (0x0B4, .aTag),
   (0x0B8, .aLabel), (0x0BC, .aFlags), (0x0C0, .aLog2n), (0x0C4, .aThrottle),
   (0x0D0, .fNPairs), (0x0D8, .fRate false), (0x0DC, .fRate true), (0x0E0, .fCf false), (0x0E4, .fCf true),
   (0x0E8, .fTs false), (0x0EC, .fTs true),
   (0x100, .specSeq), (0x104, .specN), (0x108, .specCf false), (0x10C, .specCf true), (0x110, .specRate false),
   (0x114, .specRate true), (0x118, .specTs false), (0x11C, .specTs true)]

/-- The map of a slot bank, by byte offset in the bank (R50). -/
def slotMap : List (Nat × SlotReg) :=
  [(0x00, .state), (0x04, .id), (0x08, .tag), (0x0C, .label),
   (0x10, .cf false), (0x14, .cf true), (0x18, .bw false), (0x1C, .bw true), (0x20, .outRate false), (0x24, .outRate true),
   (0x28, .offset false), (0x2C, .offset true), (0x30, .pcf false), (0x34, .pcf true), (0x38, .prate false),
   (0x3C, .prate true), (0x40, .decim), (0x44, .nTaps), (0x48, .phase false), (0x4C, .phase true), (0x50, .pinc false),
   (0x54, .pinc true), (0x58, .dcnt), (0x5C, .numFault), (0x60, .audWptr), (0x64, .audRptr), (0x68, .audDrop),
   (0x6C, .lastNout), (0x70, .cutoff false), (0x74, .cutoff true), (0x78, .frames)]

/-- The register at an aligned CSR offset (R91, R48, R50). -/
def csrAt (numRx off : Nat) : Csr :=
  if off < 0x400 then (globalMap.lookup off).getD .reserved
  else
    let k := (off - 0x400) / 0x80
    if k < numRx then
      match slotMap.lookup ((off - 0x400) % 0x80) with
      | some r => .slot k r
      | none => .reserved
    else .reserved

/-- The registers whose read while BUSY = 1 is a draw (R107). -/
def Csr.isDraw : Csr → Bool
  | .result => true
  | .fftLog2n => true
  | .throttle => true
  | .thrCnt => true
  | .frameCount => true
  | .wbCf _ => true
  | .wbRate _ => true
  | .specEff _ => true
  | .tapsN => true
  | .specSeq => true
  | .specN => true
  | .specCf _ => true
  | .specRate _ => true
  | .specTs _ => true
  | .slot _ _ => true
  | .id => false
  | .version => false
  | .param0 => false
  | .param1 => false
  | .param2 => false
  | .cmd => false
  | .status => false
  | .cmdSeq => false
  | .ie => false
  | .ip => false
  | .aCf _ => false
  | .aRate _ => false
  | .aBw _ => false
  | .aOutRate _ => false
  | .aCutoff _ => false
  | .aNTaps => false
  | .aMode => false
  | .aId => false
  | .aTag => false
  | .aLabel => false
  | .aFlags => false
  | .aLog2n => false
  | .aThrottle => false
  | .fNPairs => false
  | .fRate _ => false
  | .fCf _ => false
  | .fTs _ => false
  | .reserved => false

/-- PARAM0 (R31). -/
def Params.word0 (p : Params) : Word := BitVec.ofNat 32 (p.numRx + p.maxLog2n * 2 ^ 8 + p.maxTaps * 2 ^ 16)

/-- What a register of a slot bank reads as (R50 to R60). -/
def readSlotReg (r : RxRegs) : SlotReg → Word
  | .state => r.stateWord
  | .id => r.id
  | .tag => r.tag
  | .label => r.label
  | .cf hi => half hi r.cf
  | .bw hi => half hi r.bw
  | .outRate hi => half hi r.outRate
  | .offset hi => half hi r.offset
  | .pcf hi => half hi r.pcf
  | .prate hi => half hi r.prate
  | .decim => r.decim
  | .nTaps => r.nTaps
  | .phase hi => half hi r.phase
  | .pinc hi => half hi r.pinc
  | .dcnt => r.dcnt
  | .numFault => r.numFault
  | .audWptr => r.audWptr
  | .audRptr => r.audRptr
  | .audDrop => r.audDrop
  | .lastNout => r.lastNout
  | .cutoff hi => half hi r.cutoff
  | .frames => r.frames

/-- What a register reads as (10_state.md section 2). -/
def readCsr (N : Numerics) (s : State) : Csr → Word
  | .id => 0x53464348
  | .version => 0x00010007
  | .param0 => Params.word0 s.params
  | .param1 => BitVec.ofNat 32 s.params.maxFramePairs
  | .param2 => BitVec.ofNat 32 s.params.audioDepth
  | .cmd => s.cmd
  | .status => s.status.word
  | .result => s.result
  | .cmdSeq => s.cmdSeq
  | .ie => s.ie.setWidth 32
  | .ip => s.ip.setWidth 32
  | .fftLog2n => s.fftLog2n.setWidth 32
  | .throttle => s.throttle
  | .thrCnt => s.thrCnt
  | .frameCount => s.frameCount
  | .wbCf hi => half hi s.wbCf
  | .wbRate hi => half hi s.wbRate
  | .specEff hi => half hi (specEff N s)
  | .tapsN => s.tapsN
  | .aCf hi => half hi s.args.cf
  | .aRate hi => half hi s.args.rate
  | .aBw hi => half hi s.args.bw
  | .aOutRate hi => half hi s.args.outRate
  | .aCutoff hi => half hi s.args.cutoff
  | .aNTaps => s.args.nTaps
  | .aMode => s.args.mode
  | .aId => s.args.id
  | .aTag => s.args.tag
  | .aLabel => s.args.label
  | .aFlags => s.args.flags.setWidth 32
  | .aLog2n => s.args.log2n
  | .aThrottle => s.args.throttle
  | .fNPairs => s.frame.nPairs
  | .fRate hi => half hi s.frame.rate
  | .fCf hi => half hi s.frame.cf
  | .fTs hi => half hi s.frame.ts
  | .specSeq => s.spec.seq
  | .specN => s.spec.n
  | .specCf hi => half hi s.spec.cf
  | .specRate hi => half hi s.spec.rate
  | .specTs hi => half hi s.spec.ts
  | .slot k r =>
    match s.slots[k]? with
    | some x => readSlotReg x.regs r
    | none => 0
  | .reserved => 0

/-- Whether a write of `v` to RX_AUD_RPTR is kept (R59); an EMPTY slot keeps its reset value (R62; assumption 12). -/
def rptrKept (depth : Nat) (r : RxRegs) (v : Word) : Bool :=
  decide (r.st ≠ .empty) && decide ((r.audWptr - v).toNat ≤ depth)

/-- The slots after a write of `v` to RX_AUD_RPTR of slot `k` (R59). -/
def writeRptr (depth k : Nat) (v : Word) (l : List RxSlot) : List RxSlot :=
  l.modify k fun x => if rptrKept depth x.regs v then { x with regs := { x.regs with audRptr := v } } else x

/-- What a write to a register does while BUSY = 0 (10_state.md): a read-only or reserved one ignores it. -/
def writeCsr (v : Word) (s : State) : Csr → State
  | .cmd => { s with cmd := v, status := { s.status with busy := true } }
  | .ie => { s with ie := v.setWidth 10 }
  | .ip => s.clearIp v
  | .aCf hi => { s with args := { s.args with cf := setHalf hi v s.args.cf } }
  | .aRate hi => { s with args := { s.args with rate := setHalf hi v s.args.rate } }
  | .aBw hi => { s with args := { s.args with bw := setHalf hi v s.args.bw } }
  | .aOutRate hi => { s with args := { s.args with outRate := setHalf hi v s.args.outRate } }
  | .aCutoff hi => { s with args := { s.args with cutoff := setHalf hi v s.args.cutoff } }
  | .aNTaps => { s with args := { s.args with nTaps := v } }
  | .aMode => { s with args := { s.args with mode := v } }
  | .aId => { s with args := { s.args with id := v } }
  | .aTag => { s with args := { s.args with tag := v } }
  | .aLabel => { s with args := { s.args with label := v } }
  | .aFlags => { s with args := { s.args with flags := v.setWidth 2 } }
  | .aLog2n => { s with args := { s.args with log2n := v } }
  | .aThrottle => { s with args := { s.args with throttle := v } }
  | .fNPairs => { s with frame := { s.frame with nPairs := v } }
  | .fRate hi => { s with frame := { s.frame with rate := setHalf hi v s.frame.rate } }
  | .fCf hi => { s with frame := { s.frame with cf := setHalf hi v s.frame.cf } }
  | .fTs hi => { s with frame := { s.frame with ts := setHalf hi v s.frame.ts } }
  | .slot k r => if r = .audRptr then { s with slots := writeRptr s.params.audioDepth k v s.slots } else s
  | .id => s
  | .version => s
  | .param0 => s
  | .param1 => s
  | .param2 => s
  | .status => s
  | .result => s
  | .cmdSeq => s
  | .fftLog2n => s
  | .throttle => s
  | .thrCnt => s
  | .frameCount => s
  | .wbCf _ => s
  | .wbRate _ => s
  | .specEff _ => s
  | .tapsN => s
  | .specSeq => s
  | .specN => s
  | .specCf _ => s
  | .specRate _ => s
  | .specTs _ => s
  | .reserved => s

/-! ## The address map (R90) -/

/-- What an aligned bus address selects. -/
inductive Window
  | csr | tap | spec | frame | audio
  /-- Outside every window. -/
  | unmapped
deriving DecidableEq, Repr

/-- The window of a byte address (R90, R95). -/
def windowOf (p : Params) (a : Nat) : Window :=
  if a < 0x1000 then .csr
  else if tapBase ≤ a ∧ a < tapBase + 8 * p.maxTaps then .tap
  else if specBase ≤ a ∧ a < specBase + 4 * 2 ^ p.maxLog2n then .spec
  else if frameBase ≤ a ∧ a < frameBase + 8 * p.maxFramePairs then .frame
  else if audBase 0 ≤ a ∧ (a - audBase 0) / 0x40000 < p.numRx ∧ (a - audBase 0) % 0x40000 < 4 * p.audioDepth then .audio
  else .unmapped

/-- An access is misaligned or unmapped: R97 (a) and (b). -/
def badAddress (p : Params) (a : Nat) : Bool := decide (a % 4 ≠ 0) || decide (windowOf p a = .unmapped)

/-- A write is rejected: R97 (a), (b) and (c). -/
def badWrite (p : Params) (a : Nat) : Bool :=
  badAddress p a || decide (windowOf p a = .tap) || decide (windowOf p a = .spec) || decide (windowOf p a = .audio)

/-! ## Bus accesses -/

/-- A read returns `w` without an error. -/
def State.answer (w : Word) (s : State) : State := { s with hrdata := w, herr := false }

/-- A read returns a fresh draw (I5). -/
def State.answerDraw (s : State) : State :=
  { s with hrdata := Config.busyReadOpen s.drawCount, herr := false, drawCount := s.drawCount + 1 }

/-- A read is rejected: it returns 0 (R97). -/
def State.rejectRead (s : State) : State := { (s.raise .busErr) with hrdata := 0, herr := true }

/-- A write is rejected: nothing else changes (R97). -/
def State.rejectWrite (s : State) : State := { (s.raise .busErr) with herr := true }

/-- `MemRead(addr, 4)` (R91 to R97, R107). -/
def busRead (N : Numerics) (addr : Addr) (s : State) : State :=
  let a := addr.toNat
  if badAddress s.params a then s.rejectRead
  else
    match windowOf s.params a with
    | .csr =>
      let r := csrAt s.params.numRx a
      if s.status.busy && r.isDraw then s.answerDraw else s.answer (readCsr N s r)
    | .frame => s.answer (memRead32 s.mem a)
    | .tap => if s.status.busy then s.answerDraw else s.answer (memRead32 s.mem a)
    | .spec => if s.status.busy then s.answerDraw else s.answer (memRead32 s.mem a)
    | .audio => if s.status.busy then s.answerDraw else s.answer (memRead32 s.mem a)
    | .unmapped => s.rejectRead

/-- A write is allowed while BUSY = 1: only to IE and IP (R315). -/
def busyWritable (p : Params) (a : Nat) : Bool :=
  decide (windowOf p a = .csr) && (decide (csrAt p.numRx a = .ie) || decide (csrAt p.numRx a = .ip))

/-- What an accepted write does (R99). -/
def acceptWrite (a : Nat) (v : Word) (s : State) : State :=
  match windowOf s.params a with
  | .csr => writeCsr v s (csrAt s.params.numRx a)
  | .frame => { s with mem := memWrite32 s.mem a v }
  | .tap => s
  | .spec => s
  | .audio => s
  | .unmapped => s

/-- `MemWrite(addr, 4, v)` (R97, R99, R315). -/
def busWrite (addr : Addr) (v : Word) (s : State) : State :=
  let a := addr.toNat
  if badWrite s.params a then s.rejectWrite
  else if s.status.busy && !busyWritable s.params a then { (s.raise .hazard) with herr := false }
  else { (acceptWrite a v s) with herr := false }

/-- The RST port (R310): the register values of R311, memory kept (R312); a command in progress is abandoned. -/
def resetPort (s : State) : State := s.resetRegisters

end Sys2Proof.Machine
end

