-- ==== Sys2Proof/Machine/Window.lean ====
section
/-! DEFINITION. The Blackman-Harris window (R140) and sums in ascending order (R11). -/

namespace Sys2Proof.Machine

/-- The window of length `L` at index `n`, evaluated at the mirrored index (R140). -/
def bh (N : Numerics) (n L : Nat) : F64 :=
  let m := min n (L - 1 - n)
  let x := N.div (N.mul f64TwoPi (f64OfNat m)) (f64OfNat (L - 1))
  N.sub (N.add (N.sub bhA0 (N.mul bhA1 (N.cos x))) (N.mul bhA2 (N.cos (N.mul f64Two x))))
    (N.mul bhA3 (N.cos (N.mul f64Three x)))

/-- `acc <- +0.0`, then `acc <- acc + e` over the list in order (R11). -/
def sumUp (N : Numerics) (l : List F64) : F64 := l.foldl N.add 0

end Sys2Proof.Machine
end

