-- ==== Sys2Proof/Machine/Fft.lean ====
section
/-! DEFINITION. The spectrum engine (R142 to R150) and SET_FFT (R151). -/

namespace Sys2Proof.Machine

/-- The scratch arrays XR and XI, which live only inside one command step (R18, R74). -/
structure Scratch where
  re : List F64
  im : List F64
deriving DecidableEq, Repr

/-- The FFT input: the first `n` pairs of the frame, windowed (R143). -/
def windowed (N : Numerics) (m : Memory) (n : Nat) : Scratch where
  re := (List.range n).map fun i => N.mul (frameI m i) (bh N i n)
  im := (List.range n).map fun i => N.mul (frameQ m i) (bh N i n)

/-- `rev_b(i)`: the low `b` bits of `i` reversed (R144). -/
def bitRev : Nat → Nat → Nat
  | 0, _ => 0
  | b + 1, i => i % 2 * 2 ^ b + bitRev b (i / 2)

/-- Entries `i` and `j` exchanged. -/
def swapAt (l : List F64) (i j : Nat) : List F64 := (l.set i (l.getD j 0)).set j (l.getD i 0)

/-- The bit-reversal permutation, in place (R144). -/
def permute (b : Nat) (x : Scratch) : Scratch :=
  (List.range (2 ^ b)).foldl
    (fun x i => if i < bitRev b i then ⟨swapAt x.re i (bitRev b i), swapAt x.im i (bitRev b i)⟩ else x) x

/-- The angle of twiddle factor `k` (R146). -/
def twiddleAngle (N : Numerics) (ang : F64) (k : Nat) : F64 := N.mul ang (f64OfNat k)

/-- One butterfly of a stage, on entries `i + k` and `i + k + half` (R145). -/
def butterfly (N : Numerics) (ang : F64) (half i k : Nat) (x : Scratch) : Scratch :=
  let wr := N.cos (twiddleAngle N ang k)
  let wi := N.sin (twiddleAngle N ang k)
  let br := x.re.getD (i + k + half) 0
  let bi := x.im.getD (i + k + half) 0
  let tr := N.sub (N.mul br wr) (N.mul bi wi)
  let ti := N.add (N.mul br wi) (N.mul bi wr)
  let ar := x.re.getD (i + k) 0
  let ai := x.im.getD (i + k) 0
  { re := (x.re.set (i + k + half) (N.sub ar tr)).set (i + k) (N.add ar tr)
    im := (x.im.set (i + k + half) (N.sub ai ti)).set (i + k) (N.add ai ti) }

/-- The stage of length `len = 2^(t+1)` of a transform of size `2^b` (R145). -/
def stage (N : Numerics) (b t : Nat) (x : Scratch) : Scratch :=
  let len := 2 ^ (t + 1)
  let half := 2 ^ t
  let ang := N.div (f64Flip f64TwoPi) (f64OfNat len)
  (List.range (2 ^ b / len)).foldl
    (fun x blk => (List.range half).foldl (fun x k => butterfly N ang half (blk * len) k x) x) x

/-- The transform: permutation, then the stages len = 2, 4, ..., 2^b (R144, R145). -/
def transform (N : Numerics) (b : Nat) (x : Scratch) : Scratch :=
  (List.range b).foldl (fun x t => stage N b t x) (permute b x)

/-- The amplitude of bin `k` (R147). -/
def amplitude (N : Numerics) (x : Scratch) (k : Nat) : F64 :=
  N.sqrt (N.add (N.mul (x.re.getD k 0) (x.re.getD k 0)) (N.mul (x.im.getD k 0) (x.im.getD k 0)))

/-- Floor and dB (R148): a NaN fails the comparison and stays. -/
def decibel (N : Numerics) (a : F64) : F64 := N.mul dbScale (N.log10 (if f64Lt a ampFloor then ampFloor else a))

/-- The dB values in the order of SPEC_MEM: the shift by N/2 (R149). -/
def spectrumDb (N : Numerics) (b : Nat) (m : Memory) : List F64 :=
  let n := 2 ^ b
  let x := transform N b (windowed N m n)
  (List.range n).map fun i => decibel N (amplitude N x ((i + n / 2) % n))

/-- A spectrum value as stored (R149); the sign and payload of a NaN are drawn (I3, R153; assumption 7). -/
def specWord (N : Numerics) (draw : Nat) (x : F64) : F32 :=
  if f64IsNaN x then f32NaNOf (Config.specNanOpen draw) else N.toF32 x

/-- SPEC[0 .. N-1] (R149). -/
def specWords (N : Numerics) (draw : Nat) (db : List F64) : List F32 :=
  (List.range db.length).map fun i => specWord N (draw + i) (db.getD i 0)

/-- `spectrum()` (R143 to R150). -/
def spectrum (N : Numerics) (s : State) : State :=
  let db := spectrumDb N s.fftLog2n.toNat s.mem
  { s with
    mem := memWriteWords s.mem specBase (specWords N s.drawCount db)
    drawCount := s.drawCount + s.fftSize
    spec :=
      { seq := s.spec.seq + 1, n := BitVec.ofNat 32 s.fftSize, cf := s.frame.cf, rate := s.frame.rate, ts := s.frame.ts }
    ip := ipSet .specReady s.ip }

/-- Whether this frame is a transform opportunity (R142). -/
def State.throttleDue (s : State) : Bool := decide (s.throttle.toNat ≤ s.thrCnt.toNat + 1)

/-- Whether this frame gives a spectrum: `spec_done` (R142). -/
def State.specDue (s : State) : Bool := s.throttleDue && decide (s.fftSize ≤ s.frame.nPairs.toNat)

/-- Throttle and spectrum (R142). -/
def throttleAndSpectrum (N : Numerics) (s : State) : State :=
  let t := { s with thrCnt := if s.throttleDue then 0 else s.thrCnt + 1 }
  if s.specDue then spectrum N t else t

/-- SET_FFT (R151). -/
def setFftBody (s : State) : Except CmdError State :=
  if s.args.log2n.toNat < minLog2n ∨ s.params.maxLog2n < s.args.log2n.toNat then .error .fftSize
  else if s.args.throttle = 0 then .error .fftThrottle
  else .ok
    { s with
      fftLog2n := s.args.log2n.setWidth 5
      throttle := s.args.throttle
      thrCnt := 0
      result := 0 }

/-- The command step of SET_FFT (R151). -/
def execSetFft (s : State) : Host.Outcome State Fault Refusal := .next (runCommand setFftBody s)

end Sys2Proof.Machine
end

