-- ==== Sys2Proof/Machine/Demod.lean ====
section
/-! DEFINITION. The demodulators (R230 to R236), the guard (R238) and the audio ring (R239). -/

namespace Sys2Proof.Machine

/-- What a slot's pipeline works on during a frame: its slot, the memories, IP, and the outputs so far (R199). -/
structure Pipe where
  slot : RxSlot
  mem : Memory
  ip : BitVec 10
  nout : Nat
deriving DecidableEq, Repr

/-- NFM, the phase discriminator (R231). -/
def demodNfm (N : Numerics) (fi fq ip qp : F64) : F64 :=
  let dy := N.sub (N.mul fq ip) (N.mul fi qp)
  let dx := N.add (N.mul fi ip) (N.mul fq qp)
  N.div (N.atan2 dy dx) f64Pi

/-- AM, the envelope (R232). -/
def demodAm (N : Numerics) (fi fq : F64) : F64 := N.sqrt (N.add (N.mul fi fi) (N.mul fq fq))

/-- `demod(mode, If, Qf, Ip, Qp)` (R230, R233 to R236). -/
def demod (N : Numerics) (mode : Mode) (fi fq ip qp : F64) : F64 :=
  match mode with
  | .nfm => demodNfm N fi fq ip qp
  | .am => demodAm N fi fq
  | .usb => fi
  | .lsb => fq
  | .cw => fi
  | .raw => fi

/-- The fill level of a slot's ring (R59). -/
def RxRegs.fill (r : RxRegs) : Word := r.audWptr - r.audRptr

/-- The address AUD[k][WPTR mod AUDIO_DEPTH] a sample of slot `k` is stored at (R95, R239). -/
def audAddr (depth k : Nat) (r : RxRegs) : Nat := audBase k + 4 * (r.audWptr.toNat % depth)

/-- The ring push of a guarded sample (R239). -/
def ringPush (depth k : Nat) (v : F32) (c : Pipe) : Pipe :=
  let r := c.slot.regs
  if r.fill = BitVec.ofNat 32 depth then
    { c with
      slot := { c.slot with regs := { r with audDrop := satInc r.audDrop } }
      ip := ipSet .audOvf c.ip }
  else
    { c with
      slot := { c.slot with regs := { r with audWptr := r.audWptr + 1 } }
      mem := memWrite32 c.mem (audAddr depth k r) v
      ip := ipSet .audio c.ip }

/-- The non-finite guard, then the push: `emit(s, y)` (R238). -/
def emit (N : Numerics) (depth k : Nat) (y : F64) (c : Pipe) : Pipe :=
  let v := N.toF32 y
  if f32IsFinite v then ringPush depth k v c
  else
    ringPush depth k 0
      { c with
        slot := { c.slot with regs := { c.slot.regs with numFault := satInc c.slot.regs.numFault } }
        ip := ipSet .numFault c.ip }

end Sys2Proof.Machine
end

