-- ==== Sys2Proof/Machine/Fir.lean ====
section
/-! DEFINITION. The windowed-sinc designer (R170 to R174) and DESIGN_FIR (R175). -/

namespace Sys2Proof.Machine

/-- `raw[n]`, the kernel at |n - M| times the window (R171, R172). -/
def rawTap (N : Numerics) (T : Nat) (c : F64) (n : Nat) : F64 :=
  let M := (T - 1) / 2
  let k := if n < M then M - n else n - M
  let h :=
    if k = 0 then N.mul f64Two c
    else N.div (N.sin (N.mul (N.mul f64TwoPi c) (f64OfNat k))) (N.mul f64Pi (f64OfNat k))
  N.mul h (bh N n T)

/-- `raw[0 .. T-1]`. -/
def rawTaps (N : Numerics) (T : Nat) (c : F64) : List F64 := (List.range T).map (rawTap N T c)

/-- `design(T, c)` (R170, R171, R173): the taps, or the detail of the first check that fails. -/
def design (N : Numerics) (maxTaps T : Nat) (c : F64) : Except ConfigFault (List F64) :=
  if T % 2 = 0 then .error .evenTaps
  else if T < 3 ∨ maxTaps < T then .error .tapRange
  else if (f64Lt 0 c && f64Lt c f64Half) = false then .error .cutoff
  else
    let sum := sumUp N (rawTaps N T c)
    if f64FinitePos sum = false then .error .tapSum
    else .ok ((rawTaps N T c).map fun r => N.div r sum)

/-- DESIGN_FIR (R175, R177). -/
def designFirBody (N : Numerics) (s : State) : Except CmdError State :=
  match design N s.params.maxTaps s.args.nTaps.toNat s.args.cutoff with
  | .error e => .error (.badConfig e)
  | .ok taps => .ok ((s.putTaps taps s.args.nTaps).setResult s.args.nTaps)

/-- The command step of DESIGN_FIR (R175). -/
def execDesignFir (s : State) : Host.Outcome State Fault Refusal := .next (runCommand (designFirBody s.num) s)

end Sys2Proof.Machine
end

