-- ==== Sys2Proof/Machine/Receiver.lean ====
section
/-! DEFINITION. The receiver channel (R190 to R199) and its commands RETUNE_RX, STOP_RX, CONFIGURE_RX and READ_TAPS
(R201 to R204). -/

namespace Sys2Proof.Machine

/-! ## Configure (R191, R192) -/

/-- The NCO phase increment of an offset at a parent rate (R193). -/
def phaseInc (N : Numerics) (off prate : F64) : F64 := N.div (N.mul (f64Flip f64TwoPi) off) prate

/-- The offset is usable: finite, and within the parent rate (R191, R201). -/
def offsetOk (off prate : F64) : Bool := f64IsFinite off && f64Le (f64Abs off) prate

/-- The commit of `configure` (R191). -/
def configured (N : Numerics) (pcf prate off q cut : F64) (taps : List F64) (x : RxSlot) : RxSlot where
  regs :=
    { x.regs with
      pcf := pcf
      prate := prate
      offset := off
      decim := BitVec.ofNat 32 (max 1 (floorNat q))
      cutoff := cut
      dcnt := 0
      phase := 0
      pinc := phaseInc N off prate
      st := .configured
      cfgErr := false }
  hidden :=
    { taps := taps
      dlI := List.replicate x.regs.nTaps.toNat 0
      dlQ := List.replicate x.regs.nTaps.toNat 0
      dlW := 0
      iPrev := 0
      qPrev := 0 }

/-- `configure(s, pcf, prate)` (R191): the configured slot, or the detail of the first check that fails. -/
def configure (N : Numerics) (maxTaps : Nat) (pcf prate : F64) (x : RxSlot) : Except ConfigFault RxSlot :=
  let off := N.sub x.regs.cf pcf
  let q := N.div prate x.regs.outRate
  let cut := N.div (N.div x.regs.bw f64Two) prate
  if offsetOk off prate = false then .error .centre
  else if f64Lt q f64TwoPow32 = false then .error .decimation
  else
    match design N maxTaps x.regs.nTaps.toNat cut with
    | .error e => .error e
    | .ok taps => .ok (configured N pcf prate off q cut taps x)

/-- The slot after an implicit configure has failed (R192). -/
def implicitFail (x : RxSlot) : RxSlot :=
  { x with regs := { x.regs with st := .unconfigured, cfgErr := true } }

/-! ## NCO, mixer, delay line (R193 to R198) -/

/-- -PI < p <= PI (R56, R194). -/
def inPhaseRange (p : F64) : Bool := f64Lt (f64Flip f64Pi) p && f64Le p f64Pi

/-- The first loop of R194, for at most the given number of rounds. -/
def wrapDown (N : Numerics) : Nat → F64 → F64
  | 0, p => p
  | n + 1, p => if f64Lt f64Pi p then wrapDown N n (N.sub p f64TwoPi) else p

/-- The second loop of R194, for at most the given number of rounds. -/
def wrapUp (N : Numerics) : Nat → F64 → F64
  | 0, p => p
  | n + 1, p => if f64Le p (f64Flip f64Pi) then wrapUp N n (N.add p f64TwoPi) else p

/-- A free value inside (-PI, PI] (R56): the phase where the loops of R194 do not end (assumption 11). -/
def openPhase (p : F64) : F64 := if inPhaseRange (Config.phaseOpen p) then Config.phaseOpen p else 0

/-- `wrap(p)` (R194). "each loop runs at most twice"; a NaN stays. -/
def wrapPhase (N : Numerics) (p : F64) : F64 :=
  let q := wrapUp N 2 (wrapDown N 2 p)
  if f64IsNaN q || inPhaseRange q then q else openPhase p

/-- The mixer's in-phase output (R195). -/
def mixI (N : Numerics) (i q p : F64) : F64 := N.sub (N.mul i (N.cos p)) (N.mul q (N.sin p))

/-- The mixer's quadrature output (R195). -/
def mixQ (N : Numerics) (i q p : F64) : F64 := N.add (N.mul i (N.sin p)) (N.mul q (N.cos p))

/-- The delay-line push, T = RX_NTAPS (R196). -/
def push (T : Nat) (mi mq : F64) (h : RxHidden) : RxHidden :=
  { h with dlI := h.dlI.set h.dlW mi, dlQ := h.dlQ.set h.dlW mq, dlW := (h.dlW + 1) % T }

/-- One convolution sum over a delay line, newest sample times TAPS[0]; (DL_W - 1 - k) mod T (R198). -/
def firSum (N : Numerics) (T : Nat) (taps dl : List F64) (w : Nat) : F64 :=
  sumUp N ((List.range T).map fun k => N.mul (taps.getD k 0) (dl.getD ((w + (T - 1 - k)) % T) 0))

/-- `fir()`, I part (R198). -/
def firI (N : Numerics) (T : Nat) (h : RxHidden) : F64 := firSum N T h.taps h.dlI h.dlW

/-- `fir()`, Q part (R198). -/
def firQ (N : Numerics) (T : Nat) (h : RxHidden) : F64 := firSum N T h.taps h.dlQ h.dlW

/-! ## Per-frame processing (R199) -/

/-- NCO, mixer, delay line and decimation counter for one input pair (R194 to R197). -/
def advance (N : Numerics) (i q : F64) (x : RxSlot) : RxSlot where
  regs :=
    { x.regs with
      phase := wrapPhase N (N.add x.regs.phase x.regs.pinc)
      dcnt := if x.regs.decim.toNat ≤ x.regs.dcnt.toNat + 1 then 0 else x.regs.dcnt + 1 }
  hidden := push x.regs.nTaps.toNat (mixI N i q x.regs.phase) (mixQ N i q x.regs.phase) x.hidden

/-- Whether the next input pair gives an output (R197). -/
def RxRegs.outputDue (r : RxRegs) : Bool := decide (r.decim.toNat ≤ r.dcnt.toNat + 1)

/-- One decimated output: filter, demodulate, update the history, emit (R197, R198, R230, R237, R238). -/
def produce (N : Numerics) (depth k : Nat) (c : Pipe) : Pipe :=
  let h := c.slot.hidden
  let T := c.slot.regs.nTaps.toNat
  let y := demod N c.slot.regs.mode (firI N T h) (firQ N T h) h.iPrev h.qPrev
  let c' := { c with slot := { c.slot with hidden := { h with iPrev := firI N T h, qPrev := firQ N T h } } }
  { emit N depth k y c' with nout := c.nout + 1 }

/-- Step 4 of R199 for pair `j`. -/
def iqPair (N : Numerics) (depth k : Nat) (c : Pipe) (j : Nat) : Pipe :=
  let c' := { c with slot := advance N (frameI c.mem j) (frameQ c.mem j) c.slot }
  if c.slot.regs.outputDue then produce N depth k c' else c'

/-- Step 4 of R199: the pairs 0 .. npairs-1. -/
def iqLoop (N : Numerics) (depth k npairs : Nat) (c : Pipe) : Pipe := (List.range npairs).foldl (iqPair N depth k) c

/-- The test of step 3 of R199. -/
def RxRegs.drifted (r : RxRegs) (fr : FrameRegs) : Bool :=
  decide (r.st = .unconfigured) || f64Ne fr.rate r.prate || f64Ne fr.cf r.pcf

/-- `processIQ(s)` of R199 for slot `k`; `nout` is the value it returns. -/
def processIQ (N : Numerics) (p : Params) (fr : FrameRegs) (k : Nat) (x : RxSlot) (m : Memory) (ip : BitVec 10) : Pipe :=
  if x.regs.st = .stopped then ⟨x, m, ip, 0⟩
  else
    let y := { x with regs := { x.regs with frames := x.regs.frames + 1 } }
    if y.regs.drifted fr then
      match configure N p.maxTaps fr.cf fr.rate y with
      | .error _ => ⟨implicitFail y, m, ipSet .cfgFault ip, 0⟩
      | .ok z => iqLoop N p.audioDepth k fr.nPairs.toNat ⟨z, m, ip, 0⟩
    else iqLoop N p.audioDepth k fr.nPairs.toNat ⟨y, m, ip, 0⟩

/-! ## Slot commands -/

/-- The slot after RETUNE_RX (R201). -/
def retuned (N : Numerics) (cf : F64) (x : RxSlot) : RxSlot :=
  let off := N.sub cf x.regs.pcf
  { x with
    regs :=
      { x.regs with
        cf := cf
        offset := off
        phase := 0
        pinc := if x.regs.st = .unconfigured then x.regs.pinc else phaseInc N off x.regs.prate } }

/-- RETUNE_RX (R201). -/
def retuneRxBody (N : Numerics) (k : BitVec 8) (s : State) : Except CmdError State :=
  withSlot k s fun x =>
    if x.regs.st = .empty then .ok (s.setResult 0)
    else if f64IsFinite s.args.cf = false then .error (.badConfig .centre)
    else if x.regs.st ≠ .unconfigured ∧ offsetOk (N.sub s.args.cf x.regs.pcf) x.regs.prate = false then
      .error (.badConfig .centre)
    else .ok ((s.setSlot k.toNat (retuned N s.args.cf x)).setResult 1)

/-- STOP_RX (R202). -/
def stopRxBody (k : BitVec 8) (s : State) : Except CmdError State :=
  withSlot k s fun x =>
    if x.regs.st = .empty then .error .slotEmpty
    else if x.regs.st = .unconfigured then .error .stopUnconfigured
    else .ok ((s.setSlot k.toNat { x with regs := { x.regs with st := .stopped } }).setResult 0)

/-- CONFIGURE_RX (R203). -/
def configureRxBody (N : Numerics) (k : BitVec 8) (s : State) : Except CmdError State :=
  withSlot k s fun x =>
    if x.regs.st = .empty then .error .slotEmpty
    else if s.status.connected = false then .error .notConnected
    else
      match configure N s.params.maxTaps s.wbCf s.wbRate x with
      | .error e => .error (.badConfig e)
      | .ok y => .ok ((s.setSlot k.toNat y).setResult 1)

/-- READ_TAPS (R204). -/
def readTapsBody (k : BitVec 8) (s : State) : Except CmdError State :=
  withSlot k s fun x =>
    if x.regs.st = .empty then .error .slotEmpty
    else if x.regs.st = .unconfigured then .error .tapsUnconfigured
    else .ok ((s.putTaps (x.hidden.taps.take x.regs.nTaps.toNat) x.regs.nTaps).setResult x.regs.nTaps)

/-- The command step of RETUNE_RX (R201). -/
def execRetuneRx (slot : BitVec 8) (s : State) : Host.Outcome State Fault Refusal :=
  .next (runCommand (retuneRxBody s.num slot) s)

/-- The command step of STOP_RX (R202). -/
def execStopRx (slot : BitVec 8) (s : State) : Host.Outcome State Fault Refusal :=
  .next (runCommand (stopRxBody slot) s)

/-- The command step of CONFIGURE_RX (R203). -/
def execConfigureRx (slot : BitVec 8) (s : State) : Host.Outcome State Fault Refusal :=
  .next (runCommand (configureRxBody s.num slot) s)

/-- The command step of READ_TAPS (R204). -/
def execReadTaps (slot : BitVec 8) (s : State) : Host.Outcome State Fault Refusal :=
  .next (runCommand (readTapsBody slot) s)

end Sys2Proof.Machine
end

