-- ==== Sys2Proof/Machine/Mux.lean ====
section
/-! DEFINITION. The multiplexer's commands NOP, CONNECT, DISCONNECT, SOFT_RESET, ADD_RX, REMOVE_RX and PUSH_FRAME (R251
to R259). -/

namespace Sys2Proof.Machine

/-! ## NOP, CONNECT, DISCONNECT, SOFT_RESET -/

/-- NOP (R251). -/
def nopBody (s : State) : Except CmdError State := .ok (s.setResult 0)

/-- What CONNECT does to one slot, and whether its configure succeeded (R252). -/
def connectSlot (N : Numerics) (maxTaps : Nat) (cf rate : F64) (x : RxSlot) : RxSlot × Bool :=
  match configure N maxTaps cf rate x with
  | .ok y => (y, true)
  | .error _ => (implicitFail x, false)

/-- A slot after CONNECT: an EMPTY slot stays (R252). -/
def connectedSlot (N : Numerics) (maxTaps : Nat) (cf rate : F64) (x : RxSlot) : RxSlot :=
  if x.regs.st = .empty then x else (connectSlot N maxTaps cf rate x).1

/-- The slot holds a receiver and configures under the new wideband parameters. -/
def connectsOk (N : Numerics) (maxTaps : Nat) (cf rate : F64) (x : RxSlot) : Bool :=
  decide (x.regs.st ≠ .empty) && (connectSlot N maxTaps cf rate x).2

/-- The slot holds a receiver whose implicit configure fails. -/
def connectFails (N : Numerics) (maxTaps : Nat) (cf rate : F64) (x : RxSlot) : Bool :=
  decide (x.regs.st ≠ .empty) && !(connectSlot N maxTaps cf rate x).2

/-- CONNECT (R252). Slots share no state, so configuring them in ascending order is configuring each. -/
def connectBody (N : Numerics) (s : State) : Except CmdError State :=
  if f64FinitePos s.args.rate = false then .error .widebandRate
  else if f64IsFinite s.args.cf = false then .error .widebandCentre
  else .ok
    { s with
      status := { s.status with connected := true }
      wbCf := s.args.cf
      wbRate := s.args.rate
      slots := s.slots.map (connectedSlot N s.params.maxTaps s.args.cf s.args.rate)
      ip := ipSetIf (s.slots.any (connectFails N s.params.maxTaps s.args.cf s.args.rate)) .cfgFault s.ip
      result := BitVec.ofNat 32 (s.slots.countP (connectsOk N s.params.maxTaps s.args.cf s.args.rate)) }

/-- DISCONNECT (R253). -/
def disconnectBody (s : State) : Except CmdError State :=
  .ok { s with status := { s.status with connected := false }, result := 0 }

/-! ## ADD_RX, REMOVE_RX -/

/-- The checks of ADD_RX on its arguments, in order, and the mode they leave (R255). -/
def addChecks (p : Params) (a : ArgRegs) : Except ConfigFault Mode :=
  if f64FinitePos a.bw = false then .error .bandwidth
  else if f64FinitePos a.outRate = false then .error .outputRate
  else if addTapCount p a % 2 = 0 then .error .evenTaps
  else if addTapCount p a < 3 ∨ p.maxTaps < addTapCount p a then .error .tapRange
  else
    match modeOf a.mode with
    | none => .error .mode
    | some m => if f64IsFinite a.cf = false then .error .centre else .ok m

/-- The slot X of R255 before it is configured. The hidden state stays the unspecified one of the EMPTY slot (R75). -/
def newSlot (p : Params) (a : ArgRegs) (m : Mode) (h : RxHidden) : RxSlot where
  regs :=
    { RxRegs.reset with
      cf := a.cf
      bw := a.bw
      outRate := a.outRate
      nTaps := BitVec.ofNat 32 (addTapCount p a)
      mode := m
      hasTag := a.hasTag
      hasLabel := a.hasLabel
      id := a.id
      tag := if a.hasTag then a.tag else 0
      label := if a.hasLabel then a.label else 0
      st := .unconfigured }
  hidden := h

/-- ADD_RX (R255). -/
def addRxBody (N : Numerics) (k : BitVec 8) (s : State) : Except CmdError State :=
  withSlot k s fun old =>
    if old.regs.st ≠ .empty then .error .slotInUse
    else
      match addChecks s.params s.args with
      | .error e => .error (.badConfig e)
      | .ok m =>
        let x := newSlot s.params s.args m old.hidden
        if s.status.connected = false then .ok ((s.setSlot k.toNat x).setResult 1)
        else
          match configure N s.params.maxTaps s.wbCf s.wbRate x with
          | .error e => .error (.badConfig e)
          | .ok y => .ok ((s.setSlot k.toNat y).setResult 1)

/-- REMOVE_RX (R256). The hidden state becomes unspecified: it is drawn (R75, I6). -/
def removeRxBody (k : BitVec 8) (s : State) : Except CmdError State :=
  withSlot k s fun x =>
    if x.regs.st = .empty then .ok (s.setResult 0)
    else .ok ({ s.setSlot k.toNat (clearedSlot s.drawCount) with drawCount := s.drawCount + 1 }.setResult 1)

/-! ## PUSH_FRAME -/

/-- The fan-out over the slots from index `k` on: each non-EMPTY slot is processed once, in ascending order, and its
RX_LAST_NOUT written (R257 step 5, R258, R259). -/
def fanOut (N : Numerics) (p : Params) (fr : FrameRegs) :
    Nat → List RxSlot → Memory → BitVec 10 → List RxSlot × Memory × BitVec 10
  | _, [], m, ip => ([], m, ip)
  | k, x :: xs, m, ip =>
    if x.regs.st = .empty then
      let r := fanOut N p fr (k + 1) xs m ip
      (x :: r.1, r.2)
    else
      let c := processIQ N p fr k x m ip
      let y := { c.slot with regs := { c.slot.regs with lastNout := BitVec.ofNat 32 c.nout } }
      let r := fanOut N p fr (k + 1) xs c.mem c.ip
      (y :: r.1, r.2)

/-- Step 5 of R257. -/
def fanOutStep (N : Numerics) (s : State) : State :=
  let r := fanOut N s.params s.frame 0 s.slots s.mem s.ip
  { s with slots := r.1, mem := r.2.1, ip := r.2.2 }

/-- Step 3 of R257. -/
def acceptFrame (s : State) : State :=
  { s with frameCount := s.frameCount + 1, wbCf := s.frame.cf, wbRate := s.frame.rate }

/-- PUSH_FRAME (R257). -/
def pushFrameBody (N : Numerics) (s : State) : Except CmdError State :=
  if s.status.connected = false then .error .notConnected
  else if s.params.maxFramePairs < s.frame.nPairs.toNat then .error .framePairs
  else if f64FinitePos s.frame.rate = false then .error .frameRate
  else if f64IsFinite s.frame.cf = false then .error .frameCentre
  else .ok ((fanOutStep N (throttleAndSpectrum N (acceptFrame s))).setResult (if s.specDue then 1 else 0))

/-! ## Command steps -/

/-- The command step of NOP (R251). -/
def execNop (s : State) : Host.Outcome State Fault Refusal := .next (runCommand nopBody s)

/-- The command step of CONNECT (R252). -/
def execConnect (s : State) : Host.Outcome State Fault Refusal := .next (runCommand (connectBody s.num) s)

/-- The command step of DISCONNECT (R253). -/
def execDisconnect (s : State) : Host.Outcome State Fault Refusal := .next (runCommand disconnectBody s)

/-- The command step of SOFT_RESET (R254): the snapshot st0 is retaken after the reset, so STATE_CHANGE is not set. -/
def execSoftReset (s : State) : Host.Outcome State Fault Refusal :=
  .next ((s.resetRegisters.setResult 0).complete none s.resetRegisters.stTuple)

/-- The command step of ADD_RX (R255). -/
def execAddRx (slot : BitVec 8) (s : State) : Host.Outcome State Fault Refusal :=
  .next (runCommand (addRxBody s.num slot) s)

/-- The command step of REMOVE_RX (R256). -/
def execRemoveRx (slot : BitVec 8) (s : State) : Host.Outcome State Fault Refusal :=
  .next (runCommand (removeRxBody slot) s)

/-- The command step of PUSH_FRAME (R257). -/
def execPushFrame (s : State) : Host.Outcome State Fault Refusal := .next (runCommand (pushFrameBody s.num) s)

end Sys2Proof.Machine
end

