-- ==== Sys2Proof/Machine/Dispatch.lean ====
section
/-! DEFINITION. One arm per command: the command step of R250 for a decoded word. -/

namespace Sys2Proof.Machine

def exec (i : Instr) (s : State) : Host.Outcome State Fault Refusal :=
  match i with
  | .nop => Sys2Proof.Machine.execNop s
  | .connect => Sys2Proof.Machine.execConnect s
  | .disconnect => Sys2Proof.Machine.execDisconnect s
  | .setFft => Sys2Proof.Machine.execSetFft s
  | .softReset => Sys2Proof.Machine.execSoftReset s
  | .addRx slot => Sys2Proof.Machine.execAddRx slot s
  | .removeRx slot => Sys2Proof.Machine.execRemoveRx slot s
  | .retuneRx slot => Sys2Proof.Machine.execRetuneRx slot s
  | .stopRx slot => Sys2Proof.Machine.execStopRx slot s
  | .configureRx slot => Sys2Proof.Machine.execConfigureRx slot s
  | .readTaps slot => Sys2Proof.Machine.execReadTaps slot s
  | .pushFrame => Sys2Proof.Machine.execPushFrame s
  | .designFir => Sys2Proof.Machine.execDesignFir s

end Sys2Proof.Machine
end

