-- ==== Sys2Proof/Machine/Step.lean ====
section
/-! DEFINITION. One step of the machine: the next event of the total order of R101, a host access, RST, or the engine's
command step. -/

namespace Sys2Proof.Machine

/-- The engine's command step (R250): the decoded command runs, or its decode error completes. -/
def engineStep (s : State) : Host.Outcome State Fault Refusal :=
  match fetchCommand s with
  | .ok i => exec i s
  | .error e => .next (s.raiseError e)

/-- The engine's transition, enabled while BUSY = 1 (R250); a turn of an idle engine changes nothing. -/
def engineTurn (s : State) : Host.Outcome State Fault Refusal :=
  if s.status.busy then engineStep s else .next s

/-- One step: the first pending host event, or the engine's turn when none is left (R101, R330; assumption 14). -/
def step (s : State) : Host.Outcome State Fault Refusal :=
  match s.hostEvents with
  | [] => engineTurn s
  | e :: es =>
    let t := { s with hostEvents := es }
    match e with
    | .read addr => .next (busRead t.num addr t)
    | .write addr v => .next (busWrite addr v t)
    | .rst => .next (resetPort t)
    | .engine => engineTurn t

/-- `s` with a command of `nbits` table bits issued, so that the very next step runs it: CMD holds the word and BUSY is
1, as after the CMD write of R32, and no host event stands before the engine's step. -/
def State.withFetchWord (s : State) (nbits w : Nat) : State := s.issue (BitVec.ofNat 32 (w % 2 ^ nbits))

end Sys2Proof.Machine
end

