-- ==== Sys2Proof/Safety.lean ====
section
/-! DEFINITION. What counts as a sound state of SFCH: the invariants 10_state.md states of its registers, in the terms the
claims use. -/

namespace Sys2Proof

/-! ## The named properties of a numerics record (R14, R16) -/

/-- P1: the basic operations are NUM64's (R15, R16). -/
structure Numerics.P1 (N : Numerics) : Prop where
  add : N.add = Machine.f64Add
  sub : N.sub = Machine.f64Sub
  mul : N.mul = Machine.f64Mul
  div : N.div = Machine.f64Div
  sqrt : N.sqrt = Machine.f64Sqrt
  toF32 : N.toF32 = Machine.f64ToF32

/-- P2: the values of sine and cosine at +0, PI/2, PI, TWO_PI and 3·PI (R16). -/
structure Numerics.P2 (N : Numerics) : Prop where
  cosZero : N.cos 0 = 0x3FF0000000000000
  sinZero : N.sin 0 = 0
  cosPi : N.cos 0x400921FB54442D18 = 0xBFF0000000000000
  cosTwoPi : N.cos 0x401921FB54442D18 = 0x3FF0000000000000
  cosThreePi : N.cos (Machine.f64Mul 0x4008000000000000 0x400921FB54442D18) = 0xBFF0000000000000
  sinHalfPi : N.sin 0x3FF921FB54442D18 = 0x3FF0000000000000

/-- P3: log10(AMP_FLOOR) lies within one unit in the last place of -10 (R16). -/
def Numerics.P3 (N : Numerics) : Prop :=
  N.log10 0x3DDB7CDFD9D7BDBB ∈ ([0xC023FFFFFFFFFFFF, 0xC024000000000000, 0xC024000000000001] : List F64)

/-- Every sine and cosine is finite, as the all-zero vector of 95_test_vectors.md assumes. -/
def Numerics.FiniteTrig (N : Numerics) : Prop :=
  ∀ x, Machine.f64IsFinite (N.sin x) = true ∧ Machine.f64IsFinite (N.cos x) = true

end Sys2Proof

namespace Sys2Proof.Machine

/-- The FFT control state is legal: MIN_LOG2N <= FFT_LOG2N <= MAX_LOG2N and THR_CNT < THROTTLE (R38). -/
structure State.ControlInv (s : State) : Prop where
  log2n : minLog2n ≤ s.fftLog2n.toNat ∧ s.fftLog2n.toNat ≤ s.params.maxLog2n
  throttle : s.thrCnt.toNat < s.throttle.toNat

/-- What holds of the derived registers and the hidden state of a CONFIGURED or STOPPED slot (R55, R57, R70 to R72,
R190), and the two facts about its phase increment that keep the phase in range, the second when the record has NUM64's basic
operations. -/
structure RxSlot.LiveInv (N : Numerics) (x : RxSlot) : Prop where
  decim : 1 ≤ x.regs.decim.toNat
  dcnt : x.regs.dcnt.toNat < x.regs.decim.toNat
  taps : x.hidden.taps.length = x.regs.nTaps.toNat
  dlI : x.hidden.dlI.length = x.regs.nTaps.toNat
  dlQ : x.hidden.dlQ.length = x.regs.nTaps.toNat
  dlW : x.hidden.dlW < x.regs.nTaps.toNat
  prate : f64FinitePos x.regs.prate = true
  pinc : N.P1 → f64IsNaN x.regs.pinc = false

/-- What holds of every slot. -/
structure RxSlot.Inv (p : Params) (x : RxSlot) : Prop where
  /-- R62. -/
  empty : x.regs.st = .empty → x.regs = RxRegs.reset
  /-- R56. A record without NUM64's basic operations can make the phase a NaN. -/
  phase : x.regs.st ≠ .empty →
    inPhaseRange x.regs.phase = true ∨ ¬ p.num.record.P1 ∧ f64IsNaN x.regs.phase = true
  /-- R55 and the checks of R255. -/
  nTaps : x.regs.st ≠ .empty → x.regs.nTaps.toNat % 2 = 1 ∧ 3 ≤ x.regs.nTaps.toNat ∧ x.regs.nTaps.toNat ≤ p.maxTaps
  /-- R59. -/
  fill : x.regs.fill.toNat ≤ p.audioDepth
  /-- R55, R57. -/
  live : x.regs.st = .configured ∨ x.regs.st = .stopped → x.LiveInv p.num.record

/-- The slots are sound, and so are the wideband parameters a slot is configured against while connected (R252, R257). -/
structure State.SlotInv (s : State) : Prop where
  params : s.params.Valid
  slots : s.slots.length = s.params.numRx
  slot : ∀ x ∈ s.slots, x.Inv s.params
  wideband : s.status.connected = true → f64FinitePos s.wbRate = true ∧ f64IsFinite s.wbCf = true

/-- A step went on: it neither faulted nor was refused. -/
def goesOn (s : State) : Prop := ∃ t, step s = .next t

/-- The state an error completion leaves: the state before the command, but for the completion fields (R282). -/
def State.failedWith (code detail : BitVec 8) (s : State) : State :=
  { s with
    status := { busy := false, connected := s.status.connected, err := true, errCode := code, errDetail := detail }
    result := 0
    cmdSeq := s.cmdSeq + 1
    ip := s.ip ||| 0x101#10 }

/-- The state a successful completion leaves, from the state `t` the command's rule gives; `moved` says whether the
tuple of STATE_CHANGE differs (R250, R282, R289). -/
def State.succeeded (moved : Bool) (t : State) : State :=
  { t with
    status := { busy := false, connected := t.status.connected, err := false, errCode := 0, errDetail := 0 }
    cmdSeq := t.cmdSeq + 1
    ip := t.ip ||| (if moved then 0x201#10 else 0x001#10) }

/-- Two contents of the argument registers agree on what a command reads (R123). -/
def agreeOn (i : Instr) (a b : ArgRegs) : Prop :=
  match i with
  | .connect => a.cf = b.cf ∧ a.rate = b.rate
  | .setFft => a.log2n = b.log2n ∧ a.throttle = b.throttle
  | .addRx _ =>
    a.cf = b.cf ∧ a.bw = b.bw ∧ a.outRate = b.outRate ∧ a.mode = b.mode ∧ a.nTaps = b.nTaps ∧ a.id = b.id ∧
      a.tag = b.tag ∧ a.label = b.label ∧ a.flags = b.flags
  | .retuneRx _ => a.cf = b.cf
  | .designFir => a.nTaps = b.nTaps ∧ a.cutoff = b.cutoff
  | .nop => True
  | .disconnect => True
  | .softReset => True
  | .removeRx _ => True
  | .stopRx _ => True
  | .configureRx _ => True
  | .readTaps _ => True
  | .pushFrame => True

/-- Two contents of the frame descriptor agree on what a command reads: PUSH_FRAME reads all of it, no other command any
of it (R123). -/
def agreeOnFrame (i : Instr) (a b : FrameRegs) : Prop := i = .pushFrame → a = b

/-- What PUSH_FRAME checks before it accepts a frame (R257 steps 1 and 2). -/
def State.frameAccepted (s : State) : Prop :=
  s.status.connected = true ∧ s.frame.nPairs.toNat ≤ s.params.maxFramePairs ∧ f64FinitePos s.frame.rate = true ∧
    f64IsFinite s.frame.cf = true

/-- The bytes of `m` and `m'` agree at every address of the FRAME_MEM window (R94). -/
def sameFrameMem (p : Params) (m m' : Memory) : Prop :=
  ∀ a, frameBase ≤ a → a < frameBase + 8 * p.maxFramePairs → memRead8 m' a = memRead8 m a

/-- The transitions of RX_STATE.ST a command may make on slot `k` (R190); a command that does not name the slot, or
fails, leaves its state, and SOFT_RESET empties every slot (R254). ADD_RX moves by STATUS.CONNECTED before the command. -/
def mayMove (i : Instr) (connected : Bool) (k : Nat) (a b : RxSt) : Prop :=
  a = b ∨
    match i with
    | .addRx slot => slot.toNat = k ∧ a = .empty ∧ b = if connected then .configured else .unconfigured
    | .removeRx slot => slot.toNat = k ∧ b = .empty
    | .stopRx slot => slot.toNat = k ∧ a = .configured ∧ b = .stopped
    | .configureRx slot => slot.toNat = k ∧ connected = true ∧ a ≠ .empty ∧ b = .configured
    | .connect => a ≠ .empty ∧ (b = .configured ∨ b = .unconfigured)
    | .pushFrame => connected = true ∧ (a = .unconfigured ∨ a = .configured) ∧ (b = .configured ∨ b = .unconfigured)
    | .softReset => b = .empty
    | .nop => False
    | .disconnect => False
    | .setFft => False
    | .retuneRx _ => False
    | .readTaps _ => False
    | .designFir => False

end Sys2Proof.Machine
end

