-- ==== Sys2Proof/Certificates/Slice0/Obligations.lean ====
section
/-! DEFINITION. The statements for the provers, in the order of OBLIGATIONS.json: encoding, the step, each command, the
signal path, the bus, reset, and the invariants every step keeps. -/

section
open Sys2Proof Sys2Proof.Machine

/-! ## Encoding (30_encoding.md) -/

/-- Decoding the word of a well-formed command gives the command back, whatever its slot (R120 to R122). -/
def Obligations.EncodeThenDecode : Prop :=
  ∀ (numRx : Nat) (i : Instr), i.wellFormed numRx = true → decode numRx (encode i) = .ok i

/-- The rows of the opcode map by match and mask over the whole word, and no word outside them decodes (R122). -/
def Obligations.OpcodeMapByMatchAndMask : Prop :=
  ∀ (numRx : Nat) (w : Word),
    let slot := w.extractLsb' 8 8
    let legal := slot.toNat < numRx
    let row := w &&& 0xFFFF00FF
    (w = 0x00000000 → decode numRx w = .ok .nop) ∧
    (w = 0x00000001 → decode numRx w = .ok .connect) ∧
    (w = 0x00000002 → decode numRx w = .ok .disconnect) ∧
    (w = 0x00000003 → decode numRx w = .ok .setFft) ∧
    (w = 0x00000004 → decode numRx w = .ok .softReset) ∧
    (row = 0x00000010 → legal → decode numRx w = .ok (.addRx slot)) ∧
    (row = 0x00000011 → legal → decode numRx w = .ok (.removeRx slot)) ∧
    (row = 0x00000012 → legal → decode numRx w = .ok (.retuneRx slot)) ∧
    (row = 0x00000013 → legal → decode numRx w = .ok (.stopRx slot)) ∧
    (row = 0x00000014 → legal → decode numRx w = .ok (.configureRx slot)) ∧
    (row = 0x00000015 → legal → decode numRx w = .ok (.readTaps slot)) ∧
    (w = 0x00000020 → decode numRx w = .ok .pushFrame) ∧
    (w = 0x00000030 → decode numRx w = .ok .designFir) ∧
    ((∃ i, decode numRx w = .ok i) →
      w ∈ ([0x00, 0x01, 0x02, 0x03, 0x04, 0x20, 0x30] : List Word) ∨
        (row ∈ ([0x10, 0x11, 0x12, 0x13, 0x14, 0x15] : List Word) ∧ legal))

/-- The encoding examples of the spec, and the check that rejects each of its illegal words (R129). -/
def Obligations.SpecEncodingExamples : Prop :=
  encode .connect = 0x00000001 ∧ encode (.addRx 0) = 0x00000010 ∧ encode (.addRx 3) = 0x00000310 ∧
  encode .pushFrame = 0x00000020 ∧ encode .designFir = 0x00000030 ∧
  decode 16 0x00000001 = .ok .connect ∧ decode 16 0x00000310 = .ok (.addRx 3) ∧
  decode 16 0x00000005 = .error .badOpcode ∧ errCode .badOpcode = 1 ∧ errDetail .badOpcode = 0 ∧
  decode 16 0x00010001 = .error .rsvNonzero ∧ errCode .rsvNonzero = 2 ∧ errDetail .rsvNonzero = 1 ∧
  decode 16 0x00000101 = .error .slotNonzero ∧ errCode .slotNonzero = 2 ∧ errDetail .slotNonzero = 2 ∧
  decode 16 0x00001010 = .error .badSlot ∧ errCode .badSlot = 3 ∧
  decode 16 0x000000FF = .error .badOpcode

/-- The decode checks in order: the first that fails ends the command with its error and nothing else changes; a word
that passes all four runs its own command with s = SLOT (R121). -/
def Obligations.DecodeChecksInOrder : Prop :=
  ∀ s : State, s.hostEvents = [] → s.status.busy = true →
    let opc := s.cmd.extractLsb' 0 8
    let slot := s.cmd.extractLsb' 8 8
    let rsv := s.cmd.extractLsb' 16 16
    let slotCommand := opc ∈ ([0x10, 0x11, 0x12, 0x13, 0x14, 0x15] : List (BitVec 8))
    let defined := opc ∈ ([0x00, 0x01, 0x02, 0x03, 0x04, 0x20, 0x30] : List (BitVec 8)) ∨ slotCommand
    (¬ defined → step s = .next (s.failedWith 1 0)) ∧
    (defined → rsv ≠ 0 → step s = .next (s.failedWith 2 1)) ∧
    (defined → rsv = 0 → ¬ slotCommand → slot ≠ 0 → step s = .next (s.failedWith 2 2)) ∧
    (defined → rsv = 0 → slotCommand → s.params.numRx ≤ slot.toNat → step s = .next (s.failedWith 3 0)) ∧
    (defined → rsv = 0 → (¬ slotCommand → slot = 0) → (slotCommand → slot.toNat < s.params.numRx) →
      ∃ i : Instr, i.opcode.byte = opc ∧ (slotCommand → i.slot? = some slot) ∧ step s = exec i s)

/-! ## The step and the completion (R250, R282, R289) -/

/-- A pending command word that decodes to a command is run by the step: when no host event is left, and when the next
event is the engine's turn; the event is then used up and nothing else is added around the command. With BUSY = 0 the
engine's transition is not enabled (R250), and its turn changes nothing else: the model's choice (assumption 14). -/
def Obligations.StepRunsDecodedCommand : Prop :=
  (∀ (s : State) (i : Instr), s.status.busy = true → decode s.params.numRx s.cmd = .ok i →
    i.wellFormed s.params.numRx = true ∧
    (s.hostEvents = [] → step s = exec i s) ∧
    (∀ es, s.hostEvents = .engine :: es → step s = exec i { s with hostEvents := es })) ∧
  (∀ s : State, s.status.busy = false →
    (s.hostEvents = [] → step s = .next s) ∧
    (∀ es, s.hostEvents = .engine :: es → step s = .next { s with hostEvents := es }))

/-- Every command completes and errors are precise: a command step, of a legal or an illegal word, either fails with a
code from 1 to 11 and changes the completion fields alone, or completes with BUSY, ERR, ERRCODE and ERRDETAIL 0,
IP.CMD_DONE = 1 and CMD_SEQ one further, or 1 after a SOFT_RESET, whose reset precedes its completion (R35, R250, R254,
R280, R282). -/
def Obligations.ErrorsArePrecise : Prop :=
  ∀ s : State, s.hostEvents = [] → s.status.busy = true →
    (∃ code detail : BitVec 8, 1 ≤ code.toNat ∧ code.toNat ≤ 11 ∧ step s = .next (s.failedWith code detail)) ∨
    (∃ t, step s = .next t ∧ t.status.busy = false ∧ t.status.err = false ∧ t.status.errCode = 0 ∧
      t.status.errDetail = 0 ∧ t.ip.getLsbD 0 = true ∧ t.cmdSeq = if s.cmd = 0x00000004 then 1 else s.cmdSeq + 1)

/-- The causes of the events, over every command but SOFT_RESET: a command never clears a pending bit; it sets CMD_DONE,
CMD_ERR exactly on a failure and STATE_CHANGE exactly when the tuple of CONNECTED and the slots' ST differs from its value
at the start; the spectrum, audio and numeric events come only from PUSH_FRAME, CFG_FAULT only from it and CONNECT, HAZARD
and BUS_ERR from no command (R250, R289, R291). -/
def Obligations.EventsComeFromTheirCauses : Prop :=
  ∀ (i : Instr) (s : State), i ≠ .softReset → ∃ t, exec i s = .next t ∧
    (∀ b, s.ip.getLsbD b = true → t.ip.getLsbD b = true) ∧ t.ip.getLsbD 0 = true ∧
    (i ≠ .pushFrame → ∀ b ∈ [1, 2, 3, 4], t.ip.getLsbD b = s.ip.getLsbD b) ∧
    (i ≠ .pushFrame → i ≠ .connect → t.ip.getLsbD 5 = s.ip.getLsbD 5) ∧
    t.ip.getLsbD 6 = s.ip.getLsbD 6 ∧ t.ip.getLsbD 7 = s.ip.getLsbD 7 ∧
    t.ip.getLsbD 8 = (s.ip.getLsbD 8 || t.status.err) ∧
    t.ip.getLsbD 9 = (s.ip.getLsbD 9 || (t.stTuple != s.stTuple))

/-- A command reads only the argument and descriptor registers listed for it: changing any other changes nothing that
the command does; SOFT_RESET reads none of them and overwrites them (R123). -/
def Obligations.CommandsReadOnlyTheirOperands : Prop :=
  (∀ (i : Instr) (s t : State) (a : ArgRegs) (f : FrameRegs), i ≠ .softReset → agreeOn i s.args a →
    agreeOnFrame i s.frame f → exec i s = .next t →
      exec i { s with args := a, frame := f } = .next { t with args := a, frame := f }) ∧
  ∀ (s : State) (a : ArgRegs) (f : FrameRegs), exec .softReset { s with args := a, frame := f } = exec .softReset s

/-- Only the transitions of the state machine table exist: a command moves a slot's ST only along one of them, SOFT_RESET
apart, which empties every slot. ADD_RX goes to UNCONFIGURED exactly while disconnected and to CONFIGURED exactly while
connected, and the other moves to or from a configure happen only while connected (R190, R254). -/
def Obligations.SlotStateMachine : Prop :=
  ∀ (i : Instr) (s t : State) (k : Nat) (x y : RxSlot), exec i s = .next t → s.slots[k]? = some x →
    t.slots[k]? = some y → mayMove i s.status.connected k x.regs.st y.regs.st

/-! ## Global commands (44_multiplexer.md, 40_fft_window.md, 41_fir_design.md) -/

/-- NOP completes with RESULT = 0 in every state and changes nothing else; a NOP word with a reserved bit set is
RESERVED_FIELD/1 (R251). -/
def Obligations.NopOnlyCompletes : Prop :=
  (∀ s : State, exec .nop s = .next ({ s with result := 0 }.succeeded false)) ∧
  ∀ numRx, decode numRx 0x00010000 = .error .rsvNonzero

/-- CONNECT: its two checks in order; with valid parameters CONNECTED, WB_CF and WB_RATE are written; every non-EMPTY
slot, a STOPPED one as well, is configured against them or left UNCONFIGURED with CFGERR; RESULT counts the configured ones; CFG_FAULT reports a
failure and STATE_CHANGE a move; nothing else changes (R192, R252). -/
def Obligations.ConnectConfiguresEverySlot : Prop :=
  ∀ s : State,
  (f64FinitePos s.args.rate = false → exec .connect s = .next (s.failedWith 10 1)) ∧
  (f64FinitePos s.args.rate = true → f64IsFinite s.args.cf = false → exec .connect s = .next (s.failedWith 10 2)) ∧
  (f64FinitePos s.args.rate = true → f64IsFinite s.args.cf = true →
    ∃ t, exec .connect s = .next t ∧
      t = { s with
        status := { busy := false, connected := true, err := false, errCode := 0, errDetail := 0 }
        wbCf := s.args.cf
        wbRate := s.args.rate
        slots := t.slots
        result := BitVec.ofNat 32 (t.slots.countP fun y => decide (y.regs.st = .configured))
        cmdSeq := s.cmdSeq + 1
        ip := s.ip ||| 0x001#10 |||
          (if t.slots.any (fun y => decide (y.regs.st = .unconfigured)) then 0x020#10 else 0#10) |||
          (if s.status.connected = false ∨
              t.slots.map (fun y => y.regs.st) ≠ s.slots.map (fun x => x.regs.st) then 0x200#10 else 0#10) } ∧
      t.slots.length = s.slots.length ∧
      ∀ (k : Nat) (x y : RxSlot), s.slots[k]? = some x → t.slots[k]? = some y →
        (x.regs.st = .empty → y = x) ∧
        (x.regs.st ≠ .empty → ∀ z, configure s.num s.params.maxTaps s.args.cf s.args.rate x = .ok z → y = z) ∧
        (x.regs.st ≠ .empty → ∀ e, configure s.num s.params.maxTaps s.args.cf s.args.rate x = .error e →
          y = { x with regs := { x.regs with st := .unconfigured, cfgErr := true } }))

/-- DISCONNECT clears CONNECTED, reports it when it was set, and keeps the slots, WB_CF, WB_RATE and all else (R253). -/
def Obligations.DisconnectOnlyDisconnects : Prop :=
  ∀ s : State, exec .disconnect s =
    .next ({ s with status := { s.status with connected := false }, result := 0 }.succeeded s.status.connected)

/-- SET_FFT: its two checks in order, its four writes, and nothing else (R151). -/
def Obligations.SetFftChecksAndWrites : Prop :=
  ∀ s : State, s.params.Valid →
    exec .setFft s =
      (if s.args.log2n.toNat < 1 ∨ s.params.maxLog2n < s.args.log2n.toNat then .next (s.failedWith 9 1)
        else if s.args.throttle = 0 then .next (s.failedWith 9 2)
        else .next ({ s with
          fftLog2n := BitVec.ofNat 5 s.args.log2n.toNat
          throttle := s.args.throttle
          thrCnt := 0
          result := 0 }.succeeded false)) ∧
    (s.args.log2n.toNat ≤ s.params.maxLog2n → (BitVec.ofNat 5 s.args.log2n.toNat).toNat = s.args.log2n.toNat)

/-- SOFT_RESET: every register at its reset value, every slot EMPTY, memory kept, then an ordinary completion with
CMD_SEQ = 1, IP = CMD_DONE only, STATUS = 0 and RESULT = 0; CMD reads 0. Its word with a slot is RESERVED_FIELD/2 (R254,
R311, R312). -/
def Obligations.SoftResetThenCompletes : Prop :=
  ∀ s : State, ∃ t, exec .softReset s = .next t ∧
    t = { State.powerOn s.params with
      cmdSeq := 1
      ip := 0x001#10
      slots := t.slots
      mem := s.mem
      hrdata := t.hrdata
      herr := t.herr
      hostEvents := s.hostEvents
      drawCount := t.drawCount } ∧
    t.slots.length = s.params.numRx ∧ (∀ x ∈ t.slots, x.regs = RxRegs.reset) ∧ t.cmd = 0 ∧ t.status.word = 0 ∧
    t.irq = false ∧ ∀ numRx, decode numRx 0x00000104 = .error .slotNonzero

/-- The checks of the designer, in order, as DESIGN_FIR reports them: the tap count and the cutoff, then, for every
numerics record, the tap sum; whatever the designer fails with is the command's error (R170, R173, R175). -/
def Obligations.DesignFirRejectsInOrder : Prop :=
  (∀ s : State,
    let T := s.args.nTaps.toNat
    let c := s.args.cutoff
    (T % 2 = 0 → exec .designFir s = .next (s.failedWith 6 3)) ∧
    (T % 2 = 1 → (T < 3 ∨ s.params.maxTaps < T) → exec .designFir s = .next (s.failedWith 6 4)) ∧
    (T % 2 = 1 → 3 ≤ T → T ≤ s.params.maxTaps → (f64Lt 0 c = false ∨ f64Lt c 0x3FE0000000000000 = false) →
      exec .designFir s = .next (s.failedWith 6 5)) ∧
    (∀ e, design s.num s.params.maxTaps T c = .error e →
      exec .designFir s = .next (s.failedWith 6 (configDetail e)))) ∧
  (∀ (N : Numerics) (maxTaps T : Nat) (c : F64), T % 2 = 1 → 3 ≤ T → T ≤ maxTaps → f64Lt 0 c = true →
    f64Lt c 0x3FE0000000000000 = true → f64FinitePos (sumUp N (rawTaps N T c)) = false →
      design N maxTaps T c = .error .tapSum) ∧ configDetail .tapSum = 9

/-- DESIGN_FIR with valid arguments: TAPM[0 .. T-1] holds the designed taps, every other byte of memory is unchanged,
TAPS_N = RESULT = T, and nothing else changes (R175, R177). -/
def Obligations.DesignFirWritesTaps : Prop :=
  ∀ (s : State) (taps : List F64),
    design s.num s.params.maxTaps s.args.nTaps.toNat s.args.cutoff = .ok taps →
    ∃ m, exec .designFir s =
        .next ({ s with mem := m, tapsN := s.args.nTaps, result := s.args.nTaps }.succeeded false) ∧
      taps.length = s.args.nTaps.toNat ∧
      (∀ (n : Nat) (v : F64), taps[n]? = some v → memRead64 m (tapBase + 8 * n) = v) ∧
      (∀ a, a < tapBase ∨ tapBase + 8 * taps.length ≤ a → memRead8 m a = memRead8 s.mem a)

/-! ## Slot commands (42_receiver.md, 44_multiplexer.md) -/

/-- ADD_RX's checks, in order, the first one failing named (R255, R283). -/
def Obligations.AddRxRejectsInOrder : Prop :=
  ∀ (k : BitVec 8) (s : State) (x : RxSlot), s.slots[k.toNat]? = some x →
    let T := if s.args.nTaps = 0 then s.params.defaultTaps else s.args.nTaps.toNat
    exec (.addRx k) s =
      if x.regs.st ≠ .empty then .next (s.failedWith 4 0)
      else if f64FinitePos s.args.bw = false then .next (s.failedWith 6 1)
      else if f64FinitePos s.args.outRate = false then .next (s.failedWith 6 2)
      else if T % 2 = 0 then .next (s.failedWith 6 3)
      else if T < 3 ∨ s.params.maxTaps < T then .next (s.failedWith 6 4)
      else if 5 < s.args.mode.toNat then .next (s.failedWith 6 6)
      else if f64IsFinite s.args.cf = false then .next (s.failedWith 6 8)
      else exec (.addRx k) s

/-- ADD_RX with valid arguments while disconnected: the EMPTY slot becomes an UNCONFIGURED receiver with the arguments
copied, RX_TAG and RX_LABEL only under their flags, every other register at its reset value, the hidden state left open;
RESULT = 1, STATE_CHANGE; nothing else changes (R52, R53, R75, R255). -/
def Obligations.AddRxWhileDisconnected : Prop :=
  ∀ (k : BitVec 8) (s : State) (x : RxSlot) (m : Mode), s.slots[k.toNat]? = some x → x.regs.st = .empty →
    addChecks s.params s.args = .ok m → s.status.connected = false →
    m.code.setWidth 32 = s.args.mode ∧
    ∃ h : RxHidden, exec (.addRx k) s = .next ({ s with
      slots := s.slots.set k.toNat
        { regs := { RxRegs.reset with
            st := .unconfigured
            cf := s.args.cf
            bw := s.args.bw
            outRate := s.args.outRate
            nTaps := if s.args.nTaps = 0 then BitVec.ofNat 32 s.params.defaultTaps else s.args.nTaps
            mode := m
            hasTag := s.args.flags.getLsbD 0
            hasLabel := s.args.flags.getLsbD 1
            id := s.args.id
            tag := if s.args.flags.getLsbD 0 then s.args.tag else 0
            label := if s.args.flags.getLsbD 1 then s.args.label else 0 }
          hidden := h }
      result := 1 }.succeeded true)

/-- ADD_RX with valid arguments while connected: the new receiver is configured against WB_CF and WB_RATE and stored, or
the command fails with configure's detail and the slot stays EMPTY (R191, R192, R255). -/
def Obligations.AddRxWhileConnected : Prop :=
  ∀ (k : BitVec 8) (s : State) (x : RxSlot) (m : Mode), s.slots[k.toNat]? = some x → x.regs.st = .empty →
    addChecks s.params s.args = .ok m → s.status.connected = true →
    let new := newSlot s.params s.args m x.hidden
    (∀ y, configure s.num s.params.maxTaps s.wbCf s.wbRate new = .ok y →
      exec (.addRx k) s = .next ({ s with slots := s.slots.set k.toNat y, result := 1 }.succeeded true)) ∧
    (∀ e, configure s.num s.params.maxTaps s.wbCf s.wbRate new = .error e →
      exec (.addRx k) s = .next (s.failedWith 6 (configDetail e)))

/-- REMOVE_RX: "false" on an EMPTY slot; otherwise every register of the slot at its reset value, the hidden state
unspecified, RESULT = 1, STATE_CHANGE, memory and all else kept (R256). -/
def Obligations.RemoveRxEmptiesTheSlot : Prop :=
  ∀ (k : BitVec 8) (s : State) (x : RxSlot), s.slots[k.toNat]? = some x →
    (x.regs.st = .empty → exec (.removeRx k) s = .next ({ s with result := 0 }.succeeded false)) ∧
    (x.regs.st ≠ .empty → ∃ (h : RxHidden) (n : Nat), exec (.removeRx k) s =
      .next ({ s with
        slots := s.slots.set k.toNat { regs := RxRegs.reset, hidden := h }
        drawCount := n
        result := 1 }.succeeded true))

/-- RETUNE_RX in every state of the slot: what it checks, the registers it writes, and nothing else (R201). -/
def Obligations.RetuneRxMovesTheOffset : Prop :=
  ∀ (k : BitVec 8) (s : State) (x : RxSlot), s.slots[k.toNat]? = some x →
    let off := s.num.sub s.args.cf x.regs.pcf
    exec (.retuneRx k) s =
      if x.regs.st = .empty then .next ({ s with result := 0 }.succeeded false)
      else if f64IsFinite s.args.cf = false then .next (s.failedWith 6 8)
      else if x.regs.st = .unconfigured then
        .next ({ s with
          slots := s.slots.set k.toNat
            { x with regs := { x.regs with cf := s.args.cf, offset := off, phase := 0 } }
          result := 1 }.succeeded false)
      else if f64IsFinite off = false ∨ f64Le (f64Abs off) x.regs.prate = false then .next (s.failedWith 6 8)
      else
        .next ({ s with
          slots := s.slots.set k.toNat
            { x with
              regs := { x.regs with
                cf := s.args.cf
                offset := off
                phase := 0
                pinc := s.num.div (s.num.mul (f64Flip f64TwoPi) off) x.regs.prate } }
          result := 1 }.succeeded false)

/-- STOP_RX: its two errors, and otherwise ST becomes STOPPED and no other field of the slot or the machine changes but
the completion's (R202). -/
def Obligations.StopRxOnlyStops : Prop :=
  ∀ (k : BitVec 8) (s : State) (x : RxSlot), s.slots[k.toNat]? = some x →
    exec (.stopRx k) s =
      if x.regs.st = .empty then .next (s.failedWith 5 0)
      else if x.regs.st = .unconfigured then .next (s.failedWith 11 1)
      else
        .next ({ s with
          slots := s.slots.set k.toNat { x with regs := { x.regs with st := .stopped } }
          result := 0 }.succeeded (decide (x.regs.st = RxSt.configured)))

/-- CONFIGURE_RX: its errors in order, and otherwise the slot configured against WB_CF and WB_RATE, ST CONFIGURED, CFGERR
0, RESULT = 1; a slot whose tap count is odd cannot fail with detail 3 (R203). -/
def Obligations.ConfigureRxConfigures : Prop :=
  ∀ (k : BitVec 8) (s : State) (x : RxSlot), s.slots[k.toNat]? = some x →
    (x.regs.st = .empty → exec (.configureRx k) s = .next (s.failedWith 5 0)) ∧
    (x.regs.st ≠ .empty → s.status.connected = false → exec (.configureRx k) s = .next (s.failedWith 7 0)) ∧
    (x.regs.st ≠ .empty → s.status.connected = true →
      (∀ e, configure s.num s.params.maxTaps s.wbCf s.wbRate x = .error e →
        exec (.configureRx k) s = .next (s.failedWith 6 (configDetail e)) ∧
        (x.regs.nTaps.toNat % 2 = 1 → configDetail e ∈ ([4, 5, 7, 8, 9] : List (BitVec 8)))) ∧
      (∀ y, configure s.num s.params.maxTaps s.wbCf s.wbRate x = .ok y →
        exec (.configureRx k) s =
          .next ({ s with slots := s.slots.set k.toNat y, result := 1 }.succeeded (decide (x.regs.st ≠ RxSt.configured))) ∧
        y.regs.st = .configured ∧ y.regs.cfgErr = false ∧ y.regs.phase = 0 ∧ y.regs.dcnt = 0))

/-- READ_TAPS: its errors, and otherwise TAPM[0 .. T-1] holds the slot's taps, the bytes from T on and outside TAP_MEM are
unchanged, TAPS_N = RESULT = T, and the slot and all else stay (R204). -/
def Obligations.ReadTapsCopiesTaps : Prop :=
  ∀ (k : BitVec 8) (s : State) (x : RxSlot), s.slots[k.toNat]? = some x →
    (x.regs.st = .empty → exec (.readTaps k) s = .next (s.failedWith 5 0)) ∧
    (x.regs.st = .unconfigured → exec (.readTaps k) s = .next (s.failedWith 11 2)) ∧
    (x.regs.st = .configured ∨ x.regs.st = .stopped →
      ∃ m, exec (.readTaps k) s =
          .next ({ s with mem := m, tapsN := x.regs.nTaps, result := x.regs.nTaps }.succeeded false) ∧
        (∀ (n : Nat) (v : F64), n < x.regs.nTaps.toNat → x.hidden.taps[n]? = some v →
          memRead64 m (tapBase + 8 * n) = v) ∧
        (∀ a, a < tapBase ∨ tapBase + 8 * x.regs.nTaps.toNat ≤ a → memRead8 m a = memRead8 s.mem a))

/-! ## PUSH_FRAME (R257 to R259, R142, R149, R150) -/

/-- PUSH_FRAME's checks, in order (R257 steps 1 and 2, R283). -/
def Obligations.PushFrameRejectsInOrder : Prop :=
  ∀ s : State,
    (s.status.connected = false → exec .pushFrame s = .next (s.failedWith 7 0)) ∧
    (s.status.connected = true → s.params.maxFramePairs < s.frame.nPairs.toNat →
      exec .pushFrame s = .next (s.failedWith 8 1)) ∧
    (s.status.connected = true → s.frame.nPairs.toNat ≤ s.params.maxFramePairs → f64FinitePos s.frame.rate = false →
      exec .pushFrame s = .next (s.failedWith 8 2)) ∧
    (s.status.connected = true → s.frame.nPairs.toNat ≤ s.params.maxFramePairs → f64FinitePos s.frame.rate = true →
      f64IsFinite s.frame.cf = false → exec .pushFrame s = .next (s.failedWith 8 3))

/-- An accepted PUSH_FRAME completes. FRAME_COUNT, WB_CF and WB_RATE, the throttle counter, the spectrum descriptor and
RESULT are as the rules give them; of the other registers only the slots, the memories, IP and the draws may change.
SPEC_READY is set by a spectrum, AUDIO exactly when some slot's RX_AUD_WPTR moves, CFG_FAULT exactly when the configure of
some drifted slot fails, AUD_OVF and NUM_FAULT when the count of some slot moves and only by a slot whose count moves or
is saturated (R37, R142, R150, R192, R238, R239, R257). -/
def Obligations.PushFrameCompletes : Prop :=
  ∀ s : State, s.frameAccepted →
    let due := s.throttle.toNat ≤ s.thrCnt.toNat + 1
    let size := 2 ^ s.fftLog2n.toNat
    let done := due ∧ size ≤ s.frame.nPairs.toNat
    ∃ t, exec .pushFrame s = .next t ∧
      t = { s with
        status := { busy := false, connected := true, err := false, errCode := 0, errDetail := 0 }
        result := if done then 1 else 0
        cmdSeq := s.cmdSeq + 1
        thrCnt := if due then 0 else s.thrCnt + 1
        frameCount := s.frameCount + 1
        wbCf := s.frame.cf
        wbRate := s.frame.rate
        spec := if done then
            { seq := s.spec.seq + 1, n := BitVec.ofNat 32 size, cf := s.frame.cf, rate := s.frame.rate,
              ts := s.frame.ts }
          else s.spec
        slots := t.slots
        mem := t.mem
        ip := t.ip
        drawCount := t.drawCount } ∧
      t.slots.length = s.slots.length ∧ t.ip.getLsbD 1 = (s.ip.getLsbD 1 || decide done) ∧
      (t.ip.getLsbD 2 = true ↔ s.ip.getLsbD 2 = true ∨ ∃ (k : Nat) (x y : RxSlot),
        s.slots[k]? = some x ∧ t.slots[k]? = some y ∧ y.regs.audWptr ≠ x.regs.audWptr) ∧
      (∀ (k : Nat) (x y : RxSlot), s.slots[k]? = some x → t.slots[k]? = some y →
        (y.regs.audDrop ≠ x.regs.audDrop → t.ip.getLsbD 3 = true) ∧
        (y.regs.numFault ≠ x.regs.numFault → t.ip.getLsbD 4 = true)) ∧
      (t.ip.getLsbD 3 = true → s.ip.getLsbD 3 = true ∨ ∃ (k : Nat) (x y : RxSlot),
        s.slots[k]? = some x ∧ t.slots[k]? = some y ∧
          (y.regs.audDrop ≠ x.regs.audDrop ∨ x.regs.audDrop = 0xFFFFFFFF)) ∧
      (t.ip.getLsbD 4 = true → s.ip.getLsbD 4 = true ∨ ∃ (k : Nat) (x y : RxSlot),
        s.slots[k]? = some x ∧ t.slots[k]? = some y ∧
          (y.regs.numFault ≠ x.regs.numFault ∨ x.regs.numFault = 0xFFFFFFFF)) ∧
      (t.ip.getLsbD 5 = true ↔ s.ip.getLsbD 5 = true ∨ ∃ (k : Nat) (x : RxSlot) (e : ConfigFault),
        s.slots[k]? = some x ∧
        (x.regs.st = .unconfigured ∨
          x.regs.st = .configured ∧ (f64Ne s.frame.rate x.regs.prate = true ∨ f64Ne s.frame.cf x.regs.pcf = true)) ∧
        configure s.num s.params.maxTaps s.frame.cf s.frame.rate x = .error e)

/-- What an accepted PUSH_FRAME does to a slot: an EMPTY slot is untouched, a STOPPED one has RX_LAST_NOUT = 0 and nothing
else changed, and any other is processed once: RX_FRAMES counts the frame, its configuration stays as ADD_RX wrote it,
and a failing drift configure leaves it UNCONFIGURED with CFGERR and RX_LAST_NOUT = 0. When the slot has not drifted, or
its configure succeeds, the slot after the frame is that of the loop over the F_NPAIRS pairs of the frame, run on the
counted and, on drift, configured slot, with RX_LAST_NOUT its number of outputs; the slot's ring holds what that loop
stored, and the events it set are set (R53, R192, R199, R257, R258, R259). -/
def Obligations.PushFrameServesEverySlot : Prop :=
  ∀ (s : State) (k : Nat) (x : RxSlot), s.frameAccepted → s.slots[k]? = some x →
    ∃ t y, exec .pushFrame s = .next t ∧ t.slots[k]? = some y ∧
      (x.regs.st = .empty → y = x) ∧
      (x.regs.st = .stopped → y = { x with regs := { x.regs with lastNout := 0 } }) ∧
      (x.regs.st = .unconfigured ∨ x.regs.st = .configured →
        y.regs.frames = x.regs.frames + 1 ∧ y.regs.cf = x.regs.cf ∧ y.regs.bw = x.regs.bw ∧
        y.regs.outRate = x.regs.outRate ∧ y.regs.nTaps = x.regs.nTaps ∧ y.regs.mode = x.regs.mode ∧
        y.regs.id = x.regs.id ∧ y.regs.hasTag = x.regs.hasTag ∧ y.regs.hasLabel = x.regs.hasLabel ∧
        y.regs.tag = x.regs.tag ∧ y.regs.label = x.regs.label ∧ y.regs.audRptr = x.regs.audRptr) ∧
      (x.regs.st = .unconfigured ∨
          x.regs.st = .configured ∧ (f64Ne s.frame.rate x.regs.prate = true ∨ f64Ne s.frame.cf x.regs.pcf = true) →
        ∀ e, configure s.num s.params.maxTaps s.frame.cf s.frame.rate x = .error e →
          t.ip.getLsbD 5 = true ∧
          y = { x with
            regs := { x.regs with
              frames := x.regs.frames + 1, st := .unconfigured, cfgErr := true, lastNout := 0 } }) ∧
      (s.params.Valid → s.ControlInv → x.regs.st = .unconfigured ∨ x.regs.st = .configured →
        let counted := { x with regs := { x.regs with frames := x.regs.frames + 1 } }
        let drifted := x.regs.st = .unconfigured ∨ f64Ne s.frame.rate x.regs.prate = true ∨
          f64Ne s.frame.cf x.regs.pcf = true
        ∀ z : RxSlot,
          (drifted → configure s.num s.params.maxTaps s.frame.cf s.frame.rate counted = .ok z) →
          (¬ drifted → z = counted) →
          let c := iqLoop s.num s.params.audioDepth k s.frame.nPairs.toNat ⟨z, s.mem, 0, 0⟩
          y = { c.slot with regs := { c.slot.regs with lastNout := BitVec.ofNat 32 c.nout } } ∧
          (∀ b, c.ip.getLsbD b = true → t.ip.getLsbD b = true) ∧
          (∀ a, audBase k ≤ a → a < audBase k + 4 * s.params.audioDepth → memRead8 t.mem a = memRead8 c.mem a))

/-- The memory frame of PUSH_FRAME: a byte is unchanged unless a spectrum was written and it lies in SPEC[0 .. N-1], or it
lies in a ring entry AUD[k][n mod AUDIO_DEPTH] of a sample a slot stored, with n counted by RX_AUD_WPTR (R149, R239,
R257). -/
def Obligations.PushFrameMemoryFrame : Prop :=
  ∀ s : State, s.frameAccepted → ∃ t, exec .pushFrame s = .next t ∧
    ∀ a : Nat,
      (s.specDue = true → a < specBase ∨ specBase + 4 * s.fftSize ≤ a) →
      (∀ (k : Nat) (x y : RxSlot), s.slots[k]? = some x → t.slots[k]? = some y → ∀ n : Word,
        (n - x.regs.audWptr).toNat < (y.regs.audWptr - x.regs.audWptr).toNat →
          let stored := audAddr s.params.audioDepth k { x.regs with audWptr := n }
          a < stored ∨ stored + 4 ≤ a) →
      memRead8 t.mem a = memRead8 s.mem a

/-- A spectrum is stored shifted: SPEC[i] = toF32(db[(i + N/2) mod N]), a NaN as some binary32 NaN; SPEC[N] and above are
not written (R143 to R149, R153). -/
def Obligations.SpectrumIsStoredShifted : Prop :=
  ∀ s : State, s.frameAccepted → s.specDue = true → s.params.Valid → s.ControlInv →
    let size := s.fftSize
    let bins := transform s.num s.fftLog2n.toNat (windowed s.num s.mem size)
    let db := fun k => decibel s.num (amplitude s.num bins k)
    ∃ t, exec .pushFrame s = .next t ∧
      (∀ i, i < size →
        (f64IsNaN (db ((i + size / 2) % size)) = false →
          memRead32 t.mem (specBase + 4 * i) = s.num.toF32 (db ((i + size / 2) % size))) ∧
        (f64IsNaN (db ((i + size / 2) % size)) = true →
          f32InfBits < (memRead32 t.mem (specBase + 4 * i)).toNat % 2 ^ 31)) ∧
      (∀ a, specBase + 4 * size ≤ a → a < audBase 0 → memRead8 t.mem a = memRead8 s.mem a)

/-- Slots are isolated: what a frame does to slot `k` depends on that slot, the frame and the parameters alone, not on the
other slots, the other memories, the throttle or any other register (R258 "slots share no state"; R108). -/
def Obligations.SlotsAreIsolated : Prop :=
  ∀ (s s' t t' : State) (k : Nat), s.params.Valid → s.ControlInv → s'.ControlInv → s'.params = s.params →
    s.frameAccepted → s'.frameAccepted → s'.frame = s.frame → sameFrameMem s.params s.mem s'.mem →
    s.slots[k]? = s'.slots[k]? → exec .pushFrame s = .next t → exec .pushFrame s' = .next t' →
    t.slots[k]? = t'.slots[k]?

/-! ## The signal path (40_fft_window.md to 43_demodulators.md) -/

/-- Taps are symmetric bit for bit, for every numerics record, and there are T of them (R141, R171, R173, R176). -/
def Obligations.TapsAreSymmetric : Prop :=
  ∀ (N : Numerics) (maxTaps T : Nat) (c : F64) (taps : List F64), design N maxTaps T c = .ok taps →
    taps.length = T ∧ ∀ i, i < T → taps[i]? = taps[T - 1 - i]?

/-- Bit k of i moves to bit b - 1 - k, and the in-place permutation puts entry rev(i) at i, for both arrays (R144). -/
def Obligations.PermutationReversesBits : Prop :=
  (∀ b i k : Nat, k < b → (bitRev b i).testBit (b - 1 - k) = i.testBit k) ∧
  (∀ b i : Nat, i < 2 ^ b → bitRev b i < 2 ^ b ∧ bitRev b (bitRev b i) = i) ∧
  ∀ (b : Nat) (x : Scratch), x.re.length = 2 ^ b → x.im.length = 2 ^ b →
    (permute b x).re.length = 2 ^ b ∧ (permute b x).im.length = 2 ^ b ∧
    ∀ i, i < 2 ^ b →
      (permute b x).re.getD i 0 = x.re.getD (bitRev b i) 0 ∧ (permute b x).im.getD i 0 = x.im.getD (bitRev b i) 0

/-- All-zero input gives 0xC3480000 (-200 dB) in every bin, for every transform size and every numerics record with the
properties P1 and P3 and finite sines and cosines (R16, R152 (a)). -/
def Obligations.AllZeroFrameGivesTheFloor : Prop :=
  ∀ (N : Numerics) (b draw : Nat) (m : Memory),
    N.P1 → N.P3 → N.FiniteTrig →
    (∀ i, i < 2 ^ b → frameWord m (2 * i) = 0 ∧ frameWord m (2 * i + 1) = 0) →
    ∀ w ∈ specWords N draw (spectrumDb N b m), w = 0xC3480000

/-- The phase stays in (-PI, PI]: after the wrap it is in range or a NaN, whatever the numerics; a phase already in range
is unchanged; one above PI loses TWO_PI, and one at or below -PI gains TWO_PI, when that brings it in range; under NUM64
-PI maps to PI and TWO_PI to +0.0 (R56, R194). Where the loops would not end, the phase is the
model's free value (assumption 11). -/
def Obligations.PhaseIsWrapped : Prop :=
  (∀ (N : Numerics) (p : F64), f64IsNaN (wrapPhase N p) = true ∨ inPhaseRange (wrapPhase N p) = true) ∧
  (∀ (N : Numerics) (p : F64), inPhaseRange p = true → wrapPhase N p = p) ∧
  (∀ (N : Numerics) (p : F64), f64Lt f64Pi p = true → inPhaseRange (N.sub p f64TwoPi) = true →
    wrapPhase N p = N.sub p f64TwoPi) ∧
  (∀ (N : Numerics) (p : F64), f64Le p (f64Flip f64Pi) = true → inPhaseRange (N.add p f64TwoPi) = true →
    wrapPhase N p = N.add p f64TwoPi) ∧
  wrapPhase num64 (f64Flip f64Pi) = f64Pi ∧ wrapPhase num64 f64TwoPi = 0

/-- The delay line is a convolution window: after at least T pushes, from any contents, each sum of the filter runs over
the last T mixed samples, the newest times TAPS[0], in ascending k (R72, R196, R198). -/
def Obligations.FilterConvolvesTheLastSamples : Prop :=
  ∀ (N : Numerics) (T : Nat) (h : RxHidden) (xs : List (F64 × F64)), 0 < T → h.dlI.length = T → h.dlQ.length = T →
    h.dlW < T → T ≤ xs.length →
    let h' := xs.foldl (fun g p => push T p.1 p.2 g) h
    let newest := fun k => xs.getD (xs.length - 1 - k) (0, 0)
    firI N T h' = sumUp N ((List.range T).map fun k => N.mul (h.taps.getD k 0) (newest k).1) ∧
    firQ N T h' = sumUp N ((List.range T).map fun k => N.mul (h.taps.getD k 0) (newest k).2)

/-- The decimator keeps one output in RX_DECIM pairs, its counter running on: n pairs give (RX_DCNT + n) div RX_DECIM
outputs and leave RX_DCNT = (RX_DCNT + n) mod RX_DECIM, however the pairs are cut into frames (R197, R205). -/
def Obligations.DecimatorCountsOutputs : Prop :=
  ∀ (N : Numerics) (depth k n : Nat) (c : Pipe), c.slot.regs.dcnt.toNat < c.slot.regs.decim.toNat →
    (iqLoop N depth k n c).nout = c.nout + (c.slot.regs.dcnt.toNat + n) / c.slot.regs.decim.toNat ∧
    (iqLoop N depth k n c).slot.regs.dcnt.toNat = (c.slot.regs.dcnt.toNat + n) % c.slot.regs.decim.toNat

/-- One input pair: the mixer uses the phase before the advance, the delay lines take the mixed sample at DL_W, the phase
advances and wraps, and the counter decides whether an output is due. A due output emits the demodulated sample of the
filtered values and the OLD history, then makes the filtered values the history in every mode; a pair that gives none
changes nothing but the oscillator, the delay lines and the counter (R194 to R198, R230, R237, R238). -/
def Obligations.PairAdvancesTheChannel : Prop :=
  ∀ (N : Numerics) (depth k j : Nat) (c : Pipe),
    let r := c.slot.regs
    let h := c.slot.hidden
    let T := r.nTaps.toNat
    let i := f64OfF32 (memRead32 c.mem (0x200000 + 8 * j))
    let q := f64OfF32 (memRead32 c.mem (0x200000 + 8 * j + 4))
    let mi := N.sub (N.mul i (N.cos r.phase)) (N.mul q (N.sin r.phase))
    let mq := N.add (N.mul i (N.sin r.phase)) (N.mul q (N.cos r.phase))
    let t := iqPair N depth k c j
    let phase := wrapPhase N (N.add r.phase r.pinc)
    let lines := { h with dlI := h.dlI.set h.dlW mi, dlQ := h.dlQ.set h.dlW mq, dlW := (h.dlW + 1) % T }
    let fi := firI N T lines
    let fq := firQ N T lines
    (r.decim.toNat ≤ r.dcnt.toNat + 1 →
      let ready := { c with
        slot :=
          { regs := { r with phase := phase, dcnt := 0 }
            hidden := { lines with iPrev := fi, qPrev := fq } } }
      t = { emit N depth k (demod N r.mode fi fq h.iPrev h.qPrev) ready with nout := c.nout + 1 }) ∧
    (r.dcnt.toNat + 1 < r.decim.toNat →
      t = { c with slot := { regs := { r with phase := phase, dcnt := r.dcnt + 1 }, hidden := lines } })

/-- The six demodulators by the number of the mode; no other mode can be held (R230 to R236). -/
def Obligations.DemodulatorsByMode : Prop :=
  ∀ (N : Numerics) (mode : Mode) (fi fq ip qp : F64),
    demod N mode fi fq ip qp =
      (if mode.code = 0 then
        N.div (N.atan2 (N.sub (N.mul fq ip) (N.mul fi qp)) (N.add (N.mul fi ip) (N.mul fq qp))) f64Pi
      else if mode.code = 1 then N.sqrt (N.add (N.mul fi fi) (N.mul fq fq))
      else if mode.code = 3 then fq
      else fi) ∧ mode.code.toNat ≤ 5

/-- The guard: a sample that is finite after toF32 is pushed unchanged; any other is replaced by +0.0, counted with
saturation and flagged, then pushed (R58, R238). -/
def Obligations.GuardReplacesNonFinite : Prop :=
  ∀ (N : Numerics) (depth k : Nat) (y : F64) (c : Pipe),
    let n := c.slot.regs.numFault
    ((N.toF32 y).toNat % 2 ^ 31 < 0x7F800000 → emit N depth k y c = ringPush depth k (N.toF32 y) c) ∧
    (0x7F800000 ≤ (N.toF32 y).toNat % 2 ^ 31 →
      emit N depth k y c = ringPush depth k 0
        { c with
          slot := { c.slot with regs := { c.slot.regs with numFault := if n.toNat = 2 ^ 32 - 1 then n else n + 1 } }
          ip := c.ip ||| 0x010#10 })

/-- The ring: with the ring full the sample is dropped, counted with saturation and flagged, and memory is unchanged;
otherwise it is the word at AUD[k][WPTR mod AUDIO_DEPTH], every byte outside that word is unchanged, WPTR advances and
AUDIO is flagged; no other field changes (R95, R239). -/
def Obligations.RingStoresOrDrops : Prop :=
  ∀ (depth k : Nat) (v : F32) (c : Pipe),
    let r := c.slot.regs
    let a := 0x800000 + 0x40000 * k + 4 * (r.audWptr.toNat % depth)
    let t := ringPush depth k v c
    (r.audWptr - r.audRptr = BitVec.ofNat 32 depth →
      t = { c with
        slot := { c.slot with
          regs := { r with audDrop := if r.audDrop.toNat = 2 ^ 32 - 1 then r.audDrop else r.audDrop + 1 } }
        ip := c.ip ||| 0x008#10 }) ∧
    (r.audWptr - r.audRptr ≠ BitVec.ofNat 32 depth →
      t = { c with
        slot := { c.slot with regs := { r with audWptr := r.audWptr + 1 } }
        mem := t.mem
        ip := c.ip ||| 0x004#10 } ∧
      memRead32 t.mem a = v ∧ ∀ b, b < a ∨ a + 4 ≤ b → memRead8 t.mem b = memRead8 c.mem b)

/-- `configure` (R191): its checks in order, the first failing one named; then the commit, which writes the derived
registers and resets the NCO, the filter and the demodulator, and leaves every other register of the slot (the counters,
the ring, the receiver's own configuration) as it was. The offset check fails with detail 8, the decimation check with
detail 7; RX_DECIM is the floor of the quotient, at least 1. -/
def Obligations.ConfigureIsAllOrNothing : Prop :=
  ∀ (N : Numerics) (maxTaps : Nat) (pcf prate : F64) (x : RxSlot),
    let off := N.sub x.regs.cf pcf
    let q := N.div prate x.regs.outRate
    let cut := N.div (N.div x.regs.bw 0x4000000000000000) prate
    let T := x.regs.nTaps.toNat
    configDetail .centre = 8 ∧ configDetail .decimation = 7 ∧ (f64Lt q 0 = false → floorNat q = f64Mag q / 2 ^ 1074) ∧
    (f64IsFinite off = false ∨ f64Le (f64Abs off) prate = false →
      configure N maxTaps pcf prate x = .error .centre) ∧
    (f64IsFinite off = true → f64Le (f64Abs off) prate = true →
      (f64Lt q 0x41F0000000000000 = false → configure N maxTaps pcf prate x = .error .decimation) ∧
      (f64Lt q 0x41F0000000000000 = true →
        (∀ e, design N maxTaps T cut = .error e → configure N maxTaps pcf prate x = .error e) ∧
        (∀ taps, design N maxTaps T cut = .ok taps → configure N maxTaps pcf prate x = .ok
          { regs := { x.regs with
              pcf := pcf
              prate := prate
              offset := off
              decim := BitVec.ofNat 32 (max 1 (floorNat q))
              cutoff := cut
              dcnt := 0
              phase := 0
              pinc := N.div (N.mul 0xC01921FB54442D18 off) prate
              st := .configured
              cfgErr := false }
            hidden :=
              { taps := taps, dlI := List.replicate T 0, dlQ := List.replicate T 0, dlW := 0, iPrev := 0,
                qPrev := 0 } })))

/-- Widening a binary32 sample is exact: of a finite sample, zeros and subnormals included, the sign is kept, the
magnitude, a binary32 significand times a power of two in units of 2^-149, is the same number in units of 2^-1074, and
toF32 gives the sample back (R12, R15, R124). -/
def Obligations.WideningIsExact : Prop :=
  ∀ x : F32, x.toNat % 2 ^ 31 < 0x7F800000 →
    let e := x.toNat / 2 ^ 23 % 256
    let f := x.toNat % 2 ^ 23
    let mag := if e = 0 then f else (2 ^ 23 + f) * 2 ^ (e - 1)
    f64IsFinite (f64OfF32 x) = true ∧ f64Neg? (f64OfF32 x) = decide (2 ^ 31 ≤ x.toNat) ∧
    f64Mag (f64OfF32 x) = mag * 2 ^ 925 ∧ f64ToF32 (f64OfF32 x) = x

/-! ## The bus (20_memory.md, 10_state.md, 70_reset_and_hazards.md) -/

/-- The address map as inequalities; each address is in one window or none (R90, R95). -/
def Obligations.AddressMapWindows : Prop :=
  ∀ (p : Params) (a : Nat), p.Valid →
    (windowOf p a = .csr ↔ a < 0x1000) ∧
    (windowOf p a = .tap ↔ 0x010000 ≤ a ∧ a < 0x010000 + 8 * p.maxTaps) ∧
    (windowOf p a = .spec ↔ 0x100000 ≤ a ∧ a < 0x100000 + 4 * 2 ^ p.maxLog2n) ∧
    (windowOf p a = .frame ↔ 0x200000 ≤ a ∧ a < 0x200000 + 8 * p.maxFramePairs) ∧
    (windowOf p a = .audio ↔
      ∃ k, k < p.numRx ∧ 0x800000 + 0x40000 * k ≤ a ∧ a < 0x800000 + 0x40000 * k + 4 * p.audioDepth)

/-- A rejected access, BUSY or not: HERR and IP.BUS_ERR, 0 for a read, nothing else for a write; an access to an aligned
CSR offset, reserved or read-only ones included, is not rejected (R97, R286). -/
def Obligations.RejectedAccessesOnlyFlag : Prop :=
  ∀ (s : State) (a : Addr) (v : Word) (es : List HostEvent),
    let bad := a.toNat % 4 ≠ 0 ∨ windowOf s.params a.toNat = .unmapped
    let readOnly := windowOf s.params a.toNat ∈ [Window.tap, Window.spec, Window.audio]
    (bad → s.hostEvents = .read a :: es →
      step s = .next { s with hostEvents := es, hrdata := 0, herr := true, ip := s.ip ||| 0x080#10 }) ∧
    (bad ∨ readOnly → s.hostEvents = .write a v :: es →
      step s = .next { s with hostEvents := es, herr := true, ip := s.ip ||| 0x080#10 }) ∧
    (a.toNat % 4 = 0 → a.toNat < 0x1000 → s.hostEvents = .read a :: es ∨ s.hostEvents = .write a v :: es →
      ∃ t, step s = .next t ∧ t.herr = false ∧ (t.ip.getLsbD 7 = true → s.ip.getLsbD 7 = true))

/-- While BUSY = 1 a write that is not rejected is ignored and sets IP.HAZARD, but for IE and IP, which take effect; a
rejected one (misaligned, unmapped, or to a read-only window) sets IP.BUS_ERR, not HAZARD (R36, R37, R315). -/
def Obligations.BusyWritesAreHazards : Prop :=
  ∀ (s : State) (a : Addr) (v : Word) (es : List HostEvent), s.status.busy = true → s.hostEvents = .write a v :: es →
    let rejected := a.toNat % 4 ≠ 0 ∨
      windowOf s.params a.toNat ∈ [Window.unmapped, Window.tap, Window.spec, Window.audio]
    step s =
      if rejected then .next { s with hostEvents := es, herr := true, ip := s.ip ||| 0x080#10 }
      else if a = 0x028 then .next { s with hostEvents := es, herr := false, ie := v.setWidth 10 }
      else if a = 0x02C then .next { s with hostEvents := es, herr := false, ip := s.ip &&& ~~~(v.setWidth 10) }
      else .next { s with hostEvents := es, herr := false, ip := s.ip ||| 0x040#10 }

/-- CMD: a write while BUSY = 0 stores the word and sets BUSY, a write while BUSY = 1 is lost with IP.HAZARD, and a read
returns the stored word in either case (R32). -/
def Obligations.CommandRegister : Prop :=
  ∀ (s : State) (v : Word) (es : List HostEvent),
    (s.status.busy = false → s.hostEvents = .write 0x018 v :: es →
      step s =
        .next { s with hostEvents := es, herr := false, cmd := v, status := { s.status with busy := true } }) ∧
    (s.status.busy = true → s.hostEvents = .write 0x018 v :: es →
      step s = .next { s with hostEvents := es, herr := false, ip := s.ip ||| 0x040#10 }) ∧
    (s.hostEvents = .read 0x018 :: es →
      step s = .next { s with hostEvents := es, herr := false, hrdata := s.cmd })

/-- IE keeps its ten low bits and IP is cleared by writing ones, BUSY or not; a bit written to IP as 0 stays; both read
back with zeros above. IRQ is the OR over the ten events of IE AND IP (R36, R37, R288, R291). -/
def Obligations.InterruptRegisters : Prop :=
  ∀ (s : State) (v : Word) (es : List HostEvent),
    (s.hostEvents = .write 0x028 v :: es →
      step s = .next { s with hostEvents := es, herr := false, ie := v.extractLsb' 0 10 }) ∧
    (s.hostEvents = .read 0x028 :: es →
      step s = .next { s with hostEvents := es, herr := false, hrdata := (0 : BitVec 22) ++ s.ie }) ∧
    (s.hostEvents = .write 0x02C v :: es → ∃ t, step s = .next t ∧
      t = { s with hostEvents := es, herr := false, ip := t.ip } ∧
      ∀ b, b < 10 → t.ip.getLsbD b = (s.ip.getLsbD b && !v.getLsbD b)) ∧
    (s.hostEvents = .read 0x02C :: es →
      step s = .next { s with hostEvents := es, herr := false, hrdata := (0 : BitVec 22) ++ s.ip }) ∧
    (s.irq = true ↔ ∃ b, b < 10 ∧ s.ie.getLsbD b = true ∧ s.ip.getLsbD b = true)

/-- What a CSR write does while BUSY = 0. The argument and frame descriptor words are plain storage: a write changes what
its own offset reads as, to the value written (A_FLAGS keeps two bits), and what no other CSR offset reads as. A write to
any other offset but those of CMD, IE, IP and the RX_AUD_RPTRs, reserved offsets included, is ignored (R43, R44, R46, R48,
R49, R61). -/
def Obligations.HostRegistersAreStorage : Prop :=
  ∀ (s : State) (a : Addr) (v : Word) (es : List HostEvent), s.status.busy = false → s.hostEvents = .write a v :: es →
    a.toNat % 4 = 0 → a.toNat < 0x1000 →
    let storage := 0x080 ≤ a.toNat ∧ a.toNat ≤ 0x0C4 ∨ a.toNat = 0x0D0 ∨ 0x0D8 ≤ a.toNat ∧ a.toNat ≤ 0x0EC
    (storage → ∃ t, step s = .next t ∧
      readCsr t.num t (csrAt s.params.numRx a.toNat) = (if a.toNat = 0x0BC then v &&& 3 else v) ∧
      (∀ o, o < 0x1000 → o ≠ a.toNat →
        readCsr t.num t (csrAt s.params.numRx o) = readCsr s.num s (csrAt s.params.numRx o)) ∧
      t.slots = s.slots ∧ t.mem = s.mem ∧ t.ip = s.ip ∧ t.status = s.status ∧ t.herr = false) ∧
    (¬ storage → a.toNat ≠ 0x018 → a.toNat ≠ 0x028 → a.toNat ≠ 0x02C →
      (¬ ∃ k, k < s.params.numRx ∧ a.toNat = 0x400 + 0x80 * k + 0x64) →
      step s = .next { s with hostEvents := es, herr := false })

/-- FRAME_MEM while BUSY = 0: a write stores its word, little-endian, leaves every other byte and everything else, and a
read at any time returns the word. A read of TAP_MEM, SPEC_MEM or AUD_MEM while BUSY = 0 returns the word stored there
(R92 to R95, R98, R107). -/
def Obligations.FrameMemHoldsWhatIsWritten : Prop :=
  ∀ (s : State) (a : Addr) (v : Word) (es : List HostEvent), a.toNat % 4 = 0 →
    (windowOf s.params a.toNat = .frame → s.status.busy = false → s.hostEvents = .write a v :: es →
      ∃ t, step s = .next t ∧ t = { s with hostEvents := es, herr := false, mem := t.mem } ∧
        memRead32 t.mem a.toNat = v ∧ memRead8 t.mem a.toNat = v.extractLsb' 0 8 ∧
        ∀ b, b < a.toNat ∨ a.toNat + 4 ≤ b → memRead8 t.mem b = memRead8 s.mem b) ∧
    (windowOf s.params a.toNat = .frame ∨
        s.status.busy = false ∧ windowOf s.params a.toNat ∈ [Window.tap, Window.spec, Window.audio] →
      s.hostEvents = .read a :: es →
      step s = .next { s with hostEvents := es, herr := false, hrdata := memRead32 s.mem a.toNat })

/-- RX_AUD_RPTR of a slot that holds a receiver: a write while BUSY = 0 is kept exactly when it leaves a fill level of at
most AUDIO_DEPTH, and touches no other register (R59). -/
def Obligations.ReadPointerIsWarl : Prop :=
  ∀ (s : State) (a : Addr) (k : Nat) (x : RxSlot) (v : Word) (es : List HostEvent), s.status.busy = false →
    s.hostEvents = .write a v :: es → k < s.params.numRx → k < 16 → a.toNat = 0x400 + 0x80 * k + 0x64 →
    s.slots[k]? = some x → x.regs.st ≠ .empty →
    step s = .next
      (if (x.regs.audWptr - v).toNat ≤ s.params.audioDepth then
        { s with
          hostEvents := es, herr := false
          slots := s.slots.set k { x with regs := { x.regs with audRptr := v } } }
      else { s with hostEvents := es, herr := false })

/-- No read has a side effect: it moves HRDATA and HERR, IP.BUS_ERR when it is rejected, and the draw counter, which no
host can see (R99). -/
def Obligations.ReadsHaveNoSideEffect : Prop :=
  ∀ (s : State) (a : Addr) (es : List HostEvent), s.hostEvents = .read a :: es →
    ∃ t, step s = .next t ∧
      t = { s with
        hostEvents := es
        hrdata := t.hrdata
        herr := badAddress s.params a.toNat
        ip := if badAddress s.params a.toNat then s.ip ||| 0x080#10 else s.ip
        drawCount := t.drawCount }

/-- While BUSY = 1 a read of SPEC_MEM, TAP_MEM, AUD_MEM, a slot bank or an engine-written global register is a draw, a
free value of the model; a read of FRAME_MEM or of any other register is exact, reserved offsets apart (R107, R316). -/
def Obligations.BusyReadsOfEngineStateAreDraws : Prop :=
  ∀ (s : State) (a : Addr) (es : List HostEvent), s.status.busy = true → s.hostEvents = .read a :: es →
    a.toNat % 4 = 0 →
    (windowOf s.params a.toNat ∈ [Window.tap, Window.spec, Window.audio] ∨
        (a.toNat = 0x020 ∨ (0x030 ≤ a.toNat ∧ a.toNat ≤ 0x058) ∨ (0x100 ≤ a.toNat ∧ a.toNat ≤ 0x11C) ∨
          ∃ k, k < s.params.numRx ∧ k < 16 ∧ 0x400 + 0x80 * k ≤ a.toNat ∧ a.toNat ≤ 0x400 + 0x80 * k + 0x78) →
      step s = .next { s with
        hostEvents := es, herr := false, hrdata := Config.busyReadOpen s.drawCount, drawCount := s.drawCount + 1 }) ∧
    (windowOf s.params a.toNat = .frame →
      step s = .next { s with hostEvents := es, herr := false, hrdata := memRead32 s.mem a.toNat }) ∧
    (a.toNat ≤ 0x010 ∨ a.toNat = 0x018 ∨ a.toNat = 0x01C ∨ a.toNat = 0x024 ∨ a.toNat = 0x028 ∨ a.toNat = 0x02C ∨
        (0x080 ≤ a.toNat ∧ a.toNat ≤ 0x0C4) ∨ a.toNat = 0x0D0 ∨ (0x0D8 ≤ a.toNat ∧ a.toNat ≤ 0x0EC) →
      step s = .next { s with
        hostEvents := es, herr := false, hrdata := readCsr s.num s (csrAt s.params.numRx a.toNat) })

/-- The registers by offset, read while BUSY = 0: the read-only global ones, SPEC_EFF computed on the read from WB_RATE,
FFT_LOG2N and THROTTLE; IE and IP; the argument and frame descriptor registers; and those of a slot bank. A 64-bit
register has its low half at the lower offset. A reserved offset, those of an absent slot bank included, reads as 0
(10_state.md section 2, R31, R41, R43 to R50). -/
def Obligations.RegisterLayout : Prop :=
  ∀ (s : State) (a : Addr) (w : Word) (es : List HostEvent), s.status.busy = false → s.hostEvents = .read a :: es →
    let rate := s.num.div s.wbRate (f64OfNat (2 ^ s.fftLog2n.toNat * s.throttle.toNat))
    ((a.toNat, w) ∈ ([(0x000, 0x53464348), (0x004, 0x00010007), (0x008, Params.word0 s.params),
      (0x00C, BitVec.ofNat 32 s.params.maxFramePairs),
      (0x010, BitVec.ofNat 32 s.params.audioDepth), (0x018, s.cmd), (0x01C, s.status.word), (0x020, s.result),
      (0x024, s.cmdSeq), (0x030, (0 : BitVec 27) ++ s.fftLog2n), (0x034, s.throttle), (0x038, s.thrCnt),
      (0x03C, s.frameCount), (0x040, s.wbCf.extractLsb' 0 32), (0x044, s.wbCf.extractLsb' 32 32),
      (0x048, s.wbRate.extractLsb' 0 32), (0x04C, s.wbRate.extractLsb' 32 32), (0x050, rate.extractLsb' 0 32),
      (0x054, rate.extractLsb' 32 32), (0x058, s.tapsN), (0x100, s.spec.seq), (0x104, s.spec.n),
      (0x108, s.spec.cf.extractLsb' 0 32), (0x10C, s.spec.cf.extractLsb' 32 32), (0x110, s.spec.rate.extractLsb' 0 32),
      (0x114, s.spec.rate.extractLsb' 32 32), (0x118, s.spec.ts.extractLsb' 0 32),
      (0x11C, s.spec.ts.extractLsb' 32 32), (0x028, (0 : BitVec 22) ++ s.ie), (0x02C, (0 : BitVec 22) ++ s.ip),
      (0x080, s.args.cf.extractLsb' 0 32), (0x084, s.args.cf.extractLsb' 32 32), (0x088, s.args.rate.extractLsb' 0 32),
      (0x08C, s.args.rate.extractLsb' 32 32), (0x090, s.args.bw.extractLsb' 0 32), (0x094, s.args.bw.extractLsb' 32 32),
      (0x098, s.args.outRate.extractLsb' 0 32), (0x09C, s.args.outRate.extractLsb' 32 32),
      (0x0A0, s.args.cutoff.extractLsb' 0 32), (0x0A4, s.args.cutoff.extractLsb' 32 32), (0x0A8, s.args.nTaps),
      (0x0AC, s.args.mode), (0x0B0, s.args.id), (0x0B4, s.args.tag), (0x0B8, s.args.label),
      (0x0BC, (0 : BitVec 30) ++ s.args.flags), (0x0C0, s.args.log2n), (0x0C4, s.args.throttle),
      (0x0D0, s.frame.nPairs), (0x0D8, s.frame.rate.extractLsb' 0 32), (0x0DC, s.frame.rate.extractLsb' 32 32),
      (0x0E0, s.frame.cf.extractLsb' 0 32), (0x0E4, s.frame.cf.extractLsb' 32 32),
      (0x0E8, s.frame.ts.extractLsb' 0 32), (0x0EC, s.frame.ts.extractLsb' 32 32)] : List (Nat × Word)) →
      step s = .next { s with hostEvents := es, herr := false, hrdata := w }) ∧
    (a.toNat % 4 = 0 →
      (a.toNat = 0x014 ∨ (0x05C ≤ a.toNat ∧ a.toNat < 0x080) ∨ a.toNat = 0x0C8 ∨ a.toNat = 0x0CC ∨ a.toNat = 0x0D4 ∨
        (0x0F0 ≤ a.toNat ∧ a.toNat < 0x100) ∨ (0x120 ≤ a.toNat ∧ a.toNat < 0x400) ∨
        (0x400 + 0x80 * s.params.numRx ≤ a.toNat ∧ a.toNat < 0x1000)) →
      step s = .next { s with hostEvents := es, herr := false, hrdata := 0 }) ∧
    (∀ (k : Nat) (x : RxSlot) (off : Nat), k < s.params.numRx → k < 16 → s.slots[k]? = some x →
      a.toNat = 0x400 + 0x80 * k + off →
      (off, w) ∈ ([(0x00, x.regs.stateWord), (0x04, x.regs.id), (0x08, x.regs.tag), (0x0C, x.regs.label),
        (0x10, x.regs.cf.extractLsb' 0 32), (0x14, x.regs.cf.extractLsb' 32 32), (0x18, x.regs.bw.extractLsb' 0 32),
        (0x1C, x.regs.bw.extractLsb' 32 32), (0x20, x.regs.outRate.extractLsb' 0 32),
        (0x24, x.regs.outRate.extractLsb' 32 32), (0x28, x.regs.offset.extractLsb' 0 32),
        (0x2C, x.regs.offset.extractLsb' 32 32), (0x30, x.regs.pcf.extractLsb' 0 32),
        (0x34, x.regs.pcf.extractLsb' 32 32), (0x38, x.regs.prate.extractLsb' 0 32),
        (0x3C, x.regs.prate.extractLsb' 32 32), (0x40, x.regs.decim), (0x44, x.regs.nTaps),
        (0x48, x.regs.phase.extractLsb' 0 32), (0x4C, x.regs.phase.extractLsb' 32 32),
        (0x50, x.regs.pinc.extractLsb' 0 32), (0x54, x.regs.pinc.extractLsb' 32 32), (0x58, x.regs.dcnt),
        (0x5C, x.regs.numFault), (0x60, x.regs.audWptr), (0x64, x.regs.audRptr), (0x68, x.regs.audDrop),
        (0x6C, x.regs.lastNout), (0x70, x.regs.cutoff.extractLsb' 0 32), (0x74, x.regs.cutoff.extractLsb' 32 32),
        (0x78, x.regs.frames), (0x7C, 0)] : List (Nat × Word)) →
      step s = .next { s with hostEvents := es, herr := false, hrdata := w })

/-- The fields of STATUS, of RX_STATE and of PARAM0, each at its place, the bits between them 0; the values of ST and of
MODE (R31, R33, R45, R51). -/
def Obligations.PackedRegisterFields : Prop :=
  (∀ t : Status, t.word.getLsbD 0 = t.busy ∧ t.word.getLsbD 1 = t.connected ∧ t.word.getLsbD 2 = t.err ∧
    t.word.extractLsb' 3 5 = 0 ∧ t.word.extractLsb' 8 8 = t.errCode ∧ t.word.extractLsb' 16 8 = t.errDetail ∧
    t.word.extractLsb' 24 8 = 0) ∧
  (∀ r : RxRegs, r.stateWord.extractLsb' 0 2 = r.st.code ∧
    (r.stateWord.getLsbD 2 = true ↔ r.st = .unconfigured ∨ r.st = .configured) ∧ r.stateWord.getLsbD 3 = r.cfgErr ∧
    r.stateWord.extractLsb' 4 3 = r.mode.code ∧ r.stateWord.getLsbD 7 = false ∧ r.stateWord.getLsbD 8 = r.hasTag ∧
    r.stateWord.getLsbD 9 = r.hasLabel ∧ r.stateWord.extractLsb' 10 22 = 0) ∧
  (RxSt.empty.code = 0 ∧ RxSt.unconfigured.code = 1 ∧ RxSt.configured.code = 2 ∧ RxSt.stopped.code = 3) ∧
  (Mode.nfm.code = 0 ∧ Mode.am.code = 1 ∧ Mode.usb.code = 2 ∧ Mode.lsb.code = 3 ∧ Mode.cw.code = 4 ∧
    Mode.raw.code = 5) ∧
  (∀ p : Params, p.Valid → ((Params.word0 p).extractLsb' 0 8).toNat = p.numRx ∧
    ((Params.word0 p).extractLsb' 8 8).toNat = p.maxLog2n ∧
    ((Params.word0 p).extractLsb' 16 16).toNat = p.maxTaps)

/-! ## Reset (70_reset_and_hazards.md) -/

/-- RST abandons a pending command and gives every register its reset value, memory kept; CMD_SEQ does not count it. The
ports and the model's own fields stay; the latched HRDATA and HERR are the model's choice (R310 to R312; assumption 13). -/
def Obligations.ResetPortGivesResetValues : Prop :=
  ∀ (s : State) (es : List HostEvent), s.hostEvents = .rst :: es → ∃ t, step s = .next t ∧
    t = { State.powerOn s.params with
      slots := t.slots
      mem := s.mem
      hrdata := s.hrdata
      herr := s.herr
      hostEvents := es
      drawCount := t.drawCount } ∧
    t.slots.length = s.params.numRx ∧ ∀ x ∈ t.slots, x.regs = RxRegs.reset

/-- The values the spec gives the registers at power-on, for every instance: every offset from the argument registers on,
those of all slot banks included, reads as 0; and the default instance (R6, R15, R50, R62, R76, R311). -/
def Obligations.PowerOnRegisterValues : Prop :=
  (∀ p : Params, p.Valid →
    let s := State.powerOn p
    s.cmd = 0 ∧ s.status.word = 0 ∧ s.result = 0 ∧ s.cmdSeq = 0 ∧ s.ie = 0 ∧ s.ip = 0 ∧ s.irq = false ∧
    s.fftLog2n.toNat = p.resetLog2n ∧ s.throttle.toNat = p.resetThrottle ∧ s.thrCnt = 0 ∧ s.frameCount = 0 ∧
    s.wbCf = 0 ∧ s.wbRate = 0 ∧ s.tapsN = 0 ∧ s.slots.length = p.numRx ∧
    (∀ x ∈ s.slots, x.regs = RxRegs.reset ∧ x.regs.stateWord = 0) ∧
    (∀ o, 0x080 ≤ o → o < 0x1000 → readCsr s.num s (csrAt p.numRx o) = 0)) ∧
  State.reset.params.Valid ∧ State.reset.num = num64 ∧ State.reset.fftLog2n = 11 ∧ State.reset.throttle = 1 ∧
  State.reset.slots.length = 16

/-! ## Invariants every step keeps -/

/-- Every step keeps the memory's canonical form, addresses strictly rising: the model's own representation of the
memories, a choice of the model (assumption 8). -/
def Obligations.StepKeepsMemoryCanonical : Prop := ∀ s t : State, s.mem.wf → step s = .next t → t.mem.wf

/-- Every step keeps the control state legal: MIN_LOG2N <= FFT_LOG2N <= MAX_LOG2N and THR_CNT < THROTTLE; and none
changes the parameters of the instance (R6, R31, R38). -/
def Obligations.StepKeepsControlLegal : Prop :=
  ∀ s t : State, s.params.Valid → s.ControlInv → step s = .next t →
    t.ControlInv ∧ t.params = s.params

/-- Every step keeps every slot sound: an EMPTY slot at its reset values, -PI < RX_PHASE <= PI, odd tap counts in range,
rings within AUDIO_DEPTH, and on a CONFIGURED or STOPPED slot RX_DECIM >= 1, RX_DCNT < RX_DECIM, delay lines and taps of
T entries and DL_W < T (R55 to R57, R59, R62, R70 to R72). The phase bound is that of a numerics record with P1; without P1
the phase is in range or a NaN. It rests on assumption 11 where the wrap of R194 does not end. -/
def Obligations.StepKeepsSlotsSound : Prop := ∀ s t : State, s.SlotInv → step s = .next t → t.SlotInv

/-- The machine right after reset meets all of these invariants. -/
def Obligations.ResetMeetsInvariants : Prop :=
  State.reset.params.Valid ∧ State.reset.mem.wf ∧ State.reset.ControlInv ∧ State.reset.SlotInv

end
end

