-- ==== Sys2Proof/Laws/Memory.lean ====
section
/-! SUPPORT. The laws of memory: a read after a write, what a write leaves alone, and the canonical form. -/

namespace Sys2Proof.Machine

/-! ## One byte -/

theorem memFind_memWrite8 (m : Memory) (a b : Nat) (v : Byte) :
    memFind (memWrite8 m a v) b = if a = b then some v else memFind m b := by
  induction m with
  | nil => simp [memWrite8, memFind]
  | cons c m ih =>
    obtain ⟨k, w⟩ := c
    simp only [memWrite8]
    split
    · simp [memFind]
    · split
      · rename_i h; subst h; simp only [memFind]; split <;> simp_all
      · simp only [memFind, ih]
        split <;> split <;> simp_all

theorem memRead8_memWrite8 (m : Memory) (a b : Nat) (v : Byte) :
    memRead8 (memWrite8 m a v) b = if a = b then v else memRead8 m b := by
  unfold memRead8
  rw [memFind_memWrite8]
  split <;> rfl

/-! ## One word -/

/-- A byte outside the four stored ones is unchanged. -/
theorem memRead8_memWrite32_of_outside (m : Memory) (a b : Nat) (w : Word) (h : b < a ∨ a + 4 ≤ b) :
    memRead8 (memWrite32 m a w) b = memRead8 m b := by
  simp only [memWrite32, memRead8_memWrite8]
  grind

theorem memRead32_memWrite32_same (m : Memory) (a : Nat) (w : Word) : memRead32 (memWrite32 m a w) a = w := by
  simp only [memRead32, memWrite32, memRead8_memWrite8]
  simp only [Nat.add_eq_left, Nat.left_eq_add, if_true,
    show ∀ x y : Nat, (a + x = a + y) = (x = y) from fun x y => by simp]
  norm_num
  ext i hi
  simp only [BitVec.getElem_append, BitVec.getElem_extractLsb']
  grind

theorem memRead32_memWrite32_of_outside (m : Memory) (a b : Nat) (w : Word) (h : b + 4 ≤ a ∨ a + 4 ≤ b) :
    memRead32 (memWrite32 m a w) b = memRead32 m b := by
  simp only [memRead32]
  rw [memRead8_memWrite32_of_outside, memRead8_memWrite32_of_outside, memRead8_memWrite32_of_outside,
    memRead8_memWrite32_of_outside] <;> omega

/-! ## Doubles and runs -/

theorem memRead8_memWrite64_of_outside (m : Memory) (a b : Nat) (x : F64) (h : b < a ∨ a + 8 ≤ b) :
    memRead8 (memWrite64 m a x) b = memRead8 m b := by
  simp only [memWrite64]
  rw [memRead8_memWrite32_of_outside _ _ _ _ (by omega), memRead8_memWrite32_of_outside _ _ _ _ (by omega)]

theorem memRead64_memWrite64_same (m : Memory) (a : Nat) (x : F64) : memRead64 (memWrite64 m a x) a = x := by
  simp only [memRead64, memWrite64]
  rw [memRead32_memWrite32_same, memRead32_memWrite32_of_outside _ _ _ _ (by omega), memRead32_memWrite32_same]
  ext i hi
  simp only [BitVec.getElem_append, BitVec.getElem_extractLsb']
  grind

theorem memRead64_memWrite64_of_outside (m : Memory) (a b : Nat) (x : F64) (h : b + 8 ≤ a ∨ a + 8 ≤ b) :
    memRead64 (memWrite64 m a x) b = memRead64 m b := by
  simp only [memRead64, memWrite64]
  repeat rw [memRead32_memWrite32_of_outside _ _ _ _ (by omega)]

theorem memRead8_memWriteWords_of_outside (ws : List Word) (m : Memory) (a b : Nat)
    (h : b < a ∨ a + 4 * ws.length ≤ b) : memRead8 (memWriteWords m a ws) b = memRead8 m b := by
  induction ws generalizing m a with
  | nil => rfl
  | cons w ws ih =>
    simp only [List.length_cons] at h
    rw [memWriteWords, ih _ _ (by omega), memRead8_memWrite32_of_outside _ _ _ _ (by omega)]

theorem memRead32_memWriteWords (ws : List Word) (m : Memory) (a i : Nat) (w : Word) (h : ws[i]? = some w) :
    memRead32 (memWriteWords m a ws) (a + 4 * i) = w := by
  induction ws generalizing m a i with
  | nil => simp at h
  | cons v ws ih =>
    rw [memWriteWords]
    cases i with
    | zero =>
      obtain rfl : v = w := by simpa using h
      have : ∀ b, b < a + 4 → memRead8 (memWriteWords (memWrite32 m a v) (a + 4) ws) b = memRead8 (memWrite32 m a v) b :=
        fun b hb => memRead8_memWriteWords_of_outside _ _ _ _ (Or.inl hb)
      simp only [memRead32, Nat.mul_zero, Nat.add_zero]
      rw [this _ (by omega), this _ (by omega), this _ (by omega), this _ (by omega)]
      exact memRead32_memWrite32_same m a v
    | succ i =>
      have := ih (memWrite32 m a v) (a + 4) i (by simpa using h)
      rwa [show a + 4 * (i + 1) = a + 4 + 4 * i by omega]

theorem memRead8_memWriteDoubles_of_outside (xs : List F64) (m : Memory) (a b : Nat)
    (h : b < a ∨ a + 8 * xs.length ≤ b) : memRead8 (memWriteDoubles m a xs) b = memRead8 m b := by
  induction xs generalizing m a with
  | nil => rfl
  | cons x xs ih =>
    simp only [List.length_cons] at h
    rw [memWriteDoubles, ih _ _ (by omega), memRead8_memWrite64_of_outside _ _ _ _ (by omega)]

theorem memRead64_memWriteDoubles (xs : List F64) (m : Memory) (a i : Nat) (x : F64) (h : xs[i]? = some x) :
    memRead64 (memWriteDoubles m a xs) (a + 8 * i) = x := by
  induction xs generalizing m a i with
  | nil => simp at h
  | cons v xs ih =>
    rw [memWriteDoubles]
    cases i with
    | zero =>
      obtain rfl : v = x := by simpa using h
      have : ∀ b, b < a + 8 →
          memRead8 (memWriteDoubles (memWrite64 m a v) (a + 8) xs) b = memRead8 (memWrite64 m a v) b :=
        fun b hb => memRead8_memWriteDoubles_of_outside _ _ _ _ (Or.inl hb)
      simp only [memRead64, memRead32, Nat.mul_zero, Nat.add_zero]
      repeat rw [this _ (by omega)]
      exact memRead64_memWrite64_same m a v
    | succ i =>
      have := ih (memWrite64 m a v) (a + 8) i (by simpa using h)
      rwa [show a + 8 * (i + 1) = a + 8 + 8 * i by omega]

/-- TAPM[n] after the taps are written (R177). -/
theorem memRead64_writeTaps (m : Memory) (taps : List F64) (n : Nat) (x : F64) (h : taps[n]? = some x) :
    memRead64 (writeTaps m taps) (tapBase + 8 * n) = x := memRead64_memWriteDoubles _ _ _ _ _ h

/-- The taps' write touches TAPM[0 .. T-1] only (R92). -/
theorem memRead8_writeTaps_of_outside (m : Memory) (taps : List F64) (b : Nat)
    (h : b < tapBase ∨ tapBase + 8 * taps.length ≤ b) : memRead8 (writeTaps m taps) b = memRead8 m b :=
  memRead8_memWriteDoubles_of_outside _ _ _ _ h

/-! ## The canonical form -/

theorem mem_memWrite8 (m : Memory) (a : Nat) (v : Byte) (c : Host.Cell) (h : c ∈ memWrite8 m a v) :
    c = (a, v) ∨ c ∈ m := by
  induction m with
  | nil => simpa [memWrite8] using h
  | cons d m ih =>
    obtain ⟨k, w⟩ := d
    simp only [memWrite8] at h
    split at h
    · simpa using h
    · split at h
      · rcases List.mem_cons.1 h with h | h
        · exact .inl h
        · exact .inr (List.mem_cons_of_mem _ h)
      · rcases List.mem_cons.1 h with h | h
        · exact .inr (by simp [h])
        · exact (ih h).imp_right (List.mem_cons_of_mem _)

theorem memWrite8_wf (m : Memory) (a : Nat) (v : Byte) (h : m.wf) : (memWrite8 m a v).wf := by
  induction m with
  | nil => simp [memWrite8]
  | cons d m ih =>
    obtain ⟨k, w⟩ := d
    obtain ⟨h1, h2⟩ := List.pairwise_cons.1 h
    simp only [memWrite8]
    split
    · rename_i hk
      refine List.pairwise_cons.2 ⟨fun c hc => ?_, h⟩
      rcases List.mem_cons.1 hc with rfl | hc
      · exact hk
      · exact lt_trans hk (h1 c hc)
    · split
      · rename_i hk; subst hk; exact List.pairwise_cons.2 ⟨h1, h2⟩
      · refine List.pairwise_cons.2 ⟨fun c hc => ?_, ih h2⟩
        rcases mem_memWrite8 m a v c hc with rfl | hc
        · show k < a; omega
        · exact h1 c hc

theorem memWrite32_wf (m : Memory) (a : Nat) (w : Word) (h : m.wf) : (memWrite32 m a w).wf :=
  memWrite8_wf _ _ _ (memWrite8_wf _ _ _ (memWrite8_wf _ _ _ (memWrite8_wf _ _ _ h)))

theorem memWrite64_wf (m : Memory) (a : Nat) (x : F64) (h : m.wf) : (memWrite64 m a x).wf :=
  memWrite32_wf _ _ _ (memWrite32_wf _ _ _ h)

theorem memWriteWords_wf (ws : List Word) (m : Memory) (a : Nat) (h : m.wf) : (memWriteWords m a ws).wf := by
  induction ws generalizing m a with
  | nil => exact h
  | cons w ws ih => exact ih _ _ (memWrite32_wf _ _ _ h)

theorem memWriteDoubles_wf (xs : List F64) (m : Memory) (a : Nat) (h : m.wf) : (memWriteDoubles m a xs).wf := by
  induction xs generalizing m a with
  | nil => exact h
  | cons x xs ih => exact ih _ _ (memWrite64_wf _ _ _ h)

theorem writeTaps_wf (m : Memory) (taps : List F64) (h : m.wf) : (writeTaps m taps).wf := memWriteDoubles_wf _ _ _ h

/-! ## Halves of a 64-bit register (R49) -/

theorem half_setHalf_same (hi : Bool) (v : Word) (x : BitVec 64) : half hi (setHalf hi v x) = v := by
  cases hi <;> simp only [half, setHalf, if_true, Bool.false_eq_true, if_false] <;> ext i hi <;>
    simp only [BitVec.getElem_extractLsb', BitVec.getLsbD_append, BitVec.getLsbD_extractLsb'] <;> grind

theorem half_setHalf_other (hi : Bool) (v : Word) (x : BitVec 64) : half (!hi) (setHalf hi v x) = half (!hi) x := by
  cases hi <;> simp only [half, setHalf, Bool.not_true, Bool.not_false, if_true, Bool.false_eq_true, if_false] <;>
    ext i hi <;> simp only [BitVec.getElem_extractLsb', BitVec.getLsbD_append, BitVec.getLsbD_extractLsb'] <;> grind

end Sys2Proof.Machine
end

