-- ==== Sys2Proof/Laws/State.lean ====
section
/-! SUPPORT. One lemma per field per named update of the state, each true by definition, so that no proof unfolds a
record update. -/

namespace Sys2Proof.Machine

variable (s : State)


/-! ## raise -/

@[simp] theorem raise_params (e : Event) : (s.raise e).params = s.params := rfl
@[simp] theorem raise_num (e : Event) : (s.raise e).num = s.num := rfl
@[simp] theorem raise_cmd (e : Event) : (s.raise e).cmd = s.cmd := rfl
@[simp] theorem raise_status (e : Event) : (s.raise e).status = s.status := rfl
@[simp] theorem raise_result (e : Event) : (s.raise e).result = s.result := rfl
@[simp] theorem raise_cmdSeq (e : Event) : (s.raise e).cmdSeq = s.cmdSeq := rfl
@[simp] theorem raise_ie (e : Event) : (s.raise e).ie = s.ie := rfl
@[simp] theorem raise_ip (e : Event) : (s.raise e).ip = ipSet e s.ip := rfl
@[simp] theorem raise_fftLog2n (e : Event) : (s.raise e).fftLog2n = s.fftLog2n := rfl
@[simp] theorem raise_throttle (e : Event) : (s.raise e).throttle = s.throttle := rfl
@[simp] theorem raise_thrCnt (e : Event) : (s.raise e).thrCnt = s.thrCnt := rfl
@[simp] theorem raise_frameCount (e : Event) : (s.raise e).frameCount = s.frameCount := rfl
@[simp] theorem raise_wbCf (e : Event) : (s.raise e).wbCf = s.wbCf := rfl
@[simp] theorem raise_wbRate (e : Event) : (s.raise e).wbRate = s.wbRate := rfl
@[simp] theorem raise_tapsN (e : Event) : (s.raise e).tapsN = s.tapsN := rfl
@[simp] theorem raise_args (e : Event) : (s.raise e).args = s.args := rfl
@[simp] theorem raise_frame (e : Event) : (s.raise e).frame = s.frame := rfl
@[simp] theorem raise_spec (e : Event) : (s.raise e).spec = s.spec := rfl
@[simp] theorem raise_slots (e : Event) : (s.raise e).slots = s.slots := rfl
@[simp] theorem raise_mem (e : Event) : (s.raise e).mem = s.mem := rfl
@[simp] theorem raise_hrdata (e : Event) : (s.raise e).hrdata = s.hrdata := rfl
@[simp] theorem raise_herr (e : Event) : (s.raise e).herr = s.herr := rfl
@[simp] theorem raise_hostEvents (e : Event) : (s.raise e).hostEvents = s.hostEvents := rfl
@[simp] theorem raise_drawCount (e : Event) : (s.raise e).drawCount = s.drawCount := rfl

/-! ## clearIp -/

@[simp] theorem clearIp_params (v : Word) : (s.clearIp v).params = s.params := rfl
@[simp] theorem clearIp_num (v : Word) : (s.clearIp v).num = s.num := rfl
@[simp] theorem clearIp_cmd (v : Word) : (s.clearIp v).cmd = s.cmd := rfl
@[simp] theorem clearIp_status (v : Word) : (s.clearIp v).status = s.status := rfl
@[simp] theorem clearIp_result (v : Word) : (s.clearIp v).result = s.result := rfl
@[simp] theorem clearIp_cmdSeq (v : Word) : (s.clearIp v).cmdSeq = s.cmdSeq := rfl
@[simp] theorem clearIp_ie (v : Word) : (s.clearIp v).ie = s.ie := rfl
@[simp] theorem clearIp_ip (v : Word) : (s.clearIp v).ip = ipClear v s.ip := rfl
@[simp] theorem clearIp_fftLog2n (v : Word) : (s.clearIp v).fftLog2n = s.fftLog2n := rfl
@[simp] theorem clearIp_throttle (v : Word) : (s.clearIp v).throttle = s.throttle := rfl
@[simp] theorem clearIp_thrCnt (v : Word) : (s.clearIp v).thrCnt = s.thrCnt := rfl
@[simp] theorem clearIp_frameCount (v : Word) : (s.clearIp v).frameCount = s.frameCount := rfl
@[simp] theorem clearIp_wbCf (v : Word) : (s.clearIp v).wbCf = s.wbCf := rfl
@[simp] theorem clearIp_wbRate (v : Word) : (s.clearIp v).wbRate = s.wbRate := rfl
@[simp] theorem clearIp_tapsN (v : Word) : (s.clearIp v).tapsN = s.tapsN := rfl
@[simp] theorem clearIp_args (v : Word) : (s.clearIp v).args = s.args := rfl
@[simp] theorem clearIp_frame (v : Word) : (s.clearIp v).frame = s.frame := rfl
@[simp] theorem clearIp_spec (v : Word) : (s.clearIp v).spec = s.spec := rfl
@[simp] theorem clearIp_slots (v : Word) : (s.clearIp v).slots = s.slots := rfl
@[simp] theorem clearIp_mem (v : Word) : (s.clearIp v).mem = s.mem := rfl
@[simp] theorem clearIp_hrdata (v : Word) : (s.clearIp v).hrdata = s.hrdata := rfl
@[simp] theorem clearIp_herr (v : Word) : (s.clearIp v).herr = s.herr := rfl
@[simp] theorem clearIp_hostEvents (v : Word) : (s.clearIp v).hostEvents = s.hostEvents := rfl
@[simp] theorem clearIp_drawCount (v : Word) : (s.clearIp v).drawCount = s.drawCount := rfl

/-! ## setSlot -/

@[simp] theorem setSlot_params (k : Nat) (x : RxSlot) : (s.setSlot k x).params = s.params := rfl
@[simp] theorem setSlot_num (k : Nat) (x : RxSlot) : (s.setSlot k x).num = s.num := rfl
@[simp] theorem setSlot_cmd (k : Nat) (x : RxSlot) : (s.setSlot k x).cmd = s.cmd := rfl
@[simp] theorem setSlot_status (k : Nat) (x : RxSlot) : (s.setSlot k x).status = s.status := rfl
@[simp] theorem setSlot_result (k : Nat) (x : RxSlot) : (s.setSlot k x).result = s.result := rfl
@[simp] theorem setSlot_cmdSeq (k : Nat) (x : RxSlot) : (s.setSlot k x).cmdSeq = s.cmdSeq := rfl
@[simp] theorem setSlot_ie (k : Nat) (x : RxSlot) : (s.setSlot k x).ie = s.ie := rfl
@[simp] theorem setSlot_ip (k : Nat) (x : RxSlot) : (s.setSlot k x).ip = s.ip := rfl
@[simp] theorem setSlot_fftLog2n (k : Nat) (x : RxSlot) : (s.setSlot k x).fftLog2n = s.fftLog2n := rfl
@[simp] theorem setSlot_throttle (k : Nat) (x : RxSlot) : (s.setSlot k x).throttle = s.throttle := rfl
@[simp] theorem setSlot_thrCnt (k : Nat) (x : RxSlot) : (s.setSlot k x).thrCnt = s.thrCnt := rfl
@[simp] theorem setSlot_frameCount (k : Nat) (x : RxSlot) : (s.setSlot k x).frameCount = s.frameCount := rfl
@[simp] theorem setSlot_wbCf (k : Nat) (x : RxSlot) : (s.setSlot k x).wbCf = s.wbCf := rfl
@[simp] theorem setSlot_wbRate (k : Nat) (x : RxSlot) : (s.setSlot k x).wbRate = s.wbRate := rfl
@[simp] theorem setSlot_tapsN (k : Nat) (x : RxSlot) : (s.setSlot k x).tapsN = s.tapsN := rfl
@[simp] theorem setSlot_args (k : Nat) (x : RxSlot) : (s.setSlot k x).args = s.args := rfl
@[simp] theorem setSlot_frame (k : Nat) (x : RxSlot) : (s.setSlot k x).frame = s.frame := rfl
@[simp] theorem setSlot_spec (k : Nat) (x : RxSlot) : (s.setSlot k x).spec = s.spec := rfl
@[simp] theorem setSlot_slots (k : Nat) (x : RxSlot) : (s.setSlot k x).slots = s.slots.set k x := rfl
@[simp] theorem setSlot_mem (k : Nat) (x : RxSlot) : (s.setSlot k x).mem = s.mem := rfl
@[simp] theorem setSlot_hrdata (k : Nat) (x : RxSlot) : (s.setSlot k x).hrdata = s.hrdata := rfl
@[simp] theorem setSlot_herr (k : Nat) (x : RxSlot) : (s.setSlot k x).herr = s.herr := rfl
@[simp] theorem setSlot_hostEvents (k : Nat) (x : RxSlot) : (s.setSlot k x).hostEvents = s.hostEvents := rfl
@[simp] theorem setSlot_drawCount (k : Nat) (x : RxSlot) : (s.setSlot k x).drawCount = s.drawCount := rfl

/-! ## setResult -/

@[simp] theorem setResult_params (w : Word) : (s.setResult w).params = s.params := rfl
@[simp] theorem setResult_num (w : Word) : (s.setResult w).num = s.num := rfl
@[simp] theorem setResult_cmd (w : Word) : (s.setResult w).cmd = s.cmd := rfl
@[simp] theorem setResult_status (w : Word) : (s.setResult w).status = s.status := rfl
@[simp] theorem setResult_result (w : Word) : (s.setResult w).result = w := rfl
@[simp] theorem setResult_cmdSeq (w : Word) : (s.setResult w).cmdSeq = s.cmdSeq := rfl
@[simp] theorem setResult_ie (w : Word) : (s.setResult w).ie = s.ie := rfl
@[simp] theorem setResult_ip (w : Word) : (s.setResult w).ip = s.ip := rfl
@[simp] theorem setResult_fftLog2n (w : Word) : (s.setResult w).fftLog2n = s.fftLog2n := rfl
@[simp] theorem setResult_throttle (w : Word) : (s.setResult w).throttle = s.throttle := rfl
@[simp] theorem setResult_thrCnt (w : Word) : (s.setResult w).thrCnt = s.thrCnt := rfl
@[simp] theorem setResult_frameCount (w : Word) : (s.setResult w).frameCount = s.frameCount := rfl
@[simp] theorem setResult_wbCf (w : Word) : (s.setResult w).wbCf = s.wbCf := rfl
@[simp] theorem setResult_wbRate (w : Word) : (s.setResult w).wbRate = s.wbRate := rfl
@[simp] theorem setResult_tapsN (w : Word) : (s.setResult w).tapsN = s.tapsN := rfl
@[simp] theorem setResult_args (w : Word) : (s.setResult w).args = s.args := rfl
@[simp] theorem setResult_frame (w : Word) : (s.setResult w).frame = s.frame := rfl
@[simp] theorem setResult_spec (w : Word) : (s.setResult w).spec = s.spec := rfl
@[simp] theorem setResult_slots (w : Word) : (s.setResult w).slots = s.slots := rfl
@[simp] theorem setResult_mem (w : Word) : (s.setResult w).mem = s.mem := rfl
@[simp] theorem setResult_hrdata (w : Word) : (s.setResult w).hrdata = s.hrdata := rfl
@[simp] theorem setResult_herr (w : Word) : (s.setResult w).herr = s.herr := rfl
@[simp] theorem setResult_hostEvents (w : Word) : (s.setResult w).hostEvents = s.hostEvents := rfl
@[simp] theorem setResult_drawCount (w : Word) : (s.setResult w).drawCount = s.drawCount := rfl

/-! ## putTaps -/

@[simp] theorem putTaps_params (l : List F64) (w : Word) : (s.putTaps l w).params = s.params := rfl
@[simp] theorem putTaps_num (l : List F64) (w : Word) : (s.putTaps l w).num = s.num := rfl
@[simp] theorem putTaps_cmd (l : List F64) (w : Word) : (s.putTaps l w).cmd = s.cmd := rfl
@[simp] theorem putTaps_status (l : List F64) (w : Word) : (s.putTaps l w).status = s.status := rfl
@[simp] theorem putTaps_result (l : List F64) (w : Word) : (s.putTaps l w).result = s.result := rfl
@[simp] theorem putTaps_cmdSeq (l : List F64) (w : Word) : (s.putTaps l w).cmdSeq = s.cmdSeq := rfl
@[simp] theorem putTaps_ie (l : List F64) (w : Word) : (s.putTaps l w).ie = s.ie := rfl
@[simp] theorem putTaps_ip (l : List F64) (w : Word) : (s.putTaps l w).ip = s.ip := rfl
@[simp] theorem putTaps_fftLog2n (l : List F64) (w : Word) : (s.putTaps l w).fftLog2n = s.fftLog2n := rfl
@[simp] theorem putTaps_throttle (l : List F64) (w : Word) : (s.putTaps l w).throttle = s.throttle := rfl
@[simp] theorem putTaps_thrCnt (l : List F64) (w : Word) : (s.putTaps l w).thrCnt = s.thrCnt := rfl
@[simp] theorem putTaps_frameCount (l : List F64) (w : Word) : (s.putTaps l w).frameCount = s.frameCount := rfl
@[simp] theorem putTaps_wbCf (l : List F64) (w : Word) : (s.putTaps l w).wbCf = s.wbCf := rfl
@[simp] theorem putTaps_wbRate (l : List F64) (w : Word) : (s.putTaps l w).wbRate = s.wbRate := rfl
@[simp] theorem putTaps_tapsN (l : List F64) (w : Word) : (s.putTaps l w).tapsN = w := rfl
@[simp] theorem putTaps_args (l : List F64) (w : Word) : (s.putTaps l w).args = s.args := rfl
@[simp] theorem putTaps_frame (l : List F64) (w : Word) : (s.putTaps l w).frame = s.frame := rfl
@[simp] theorem putTaps_spec (l : List F64) (w : Word) : (s.putTaps l w).spec = s.spec := rfl
@[simp] theorem putTaps_slots (l : List F64) (w : Word) : (s.putTaps l w).slots = s.slots := rfl
@[simp] theorem putTaps_mem (l : List F64) (w : Word) : (s.putTaps l w).mem = writeTaps s.mem l := rfl
@[simp] theorem putTaps_hrdata (l : List F64) (w : Word) : (s.putTaps l w).hrdata = s.hrdata := rfl
@[simp] theorem putTaps_herr (l : List F64) (w : Word) : (s.putTaps l w).herr = s.herr := rfl
@[simp] theorem putTaps_hostEvents (l : List F64) (w : Word) : (s.putTaps l w).hostEvents = s.hostEvents := rfl
@[simp] theorem putTaps_drawCount (l : List F64) (w : Word) : (s.putTaps l w).drawCount = s.drawCount := rfl

/-! ## complete -/

@[simp] theorem complete_params (e : Option CmdError) (st0 : Bool × List RxSt) :
    (s.complete e st0).params = s.params :=
  rfl
@[simp] theorem complete_num (e : Option CmdError) (st0 : Bool × List RxSt) :
    (s.complete e st0).num = s.num :=
  rfl
@[simp] theorem complete_cmd (e : Option CmdError) (st0 : Bool × List RxSt) : (s.complete e st0).cmd = s.cmd := rfl
@[simp] theorem complete_status (e : Option CmdError) (st0 : Bool × List RxSt) :
    (s.complete e st0).status = ⟨false, s.status.connected, e.isSome, codeOf e, detailOf e⟩ :=
  rfl
@[simp] theorem complete_result (e : Option CmdError) (st0 : Bool × List RxSt) :
    (s.complete e st0).result = if e.isSome then 0 else s.result :=
  rfl
@[simp] theorem complete_cmdSeq (e : Option CmdError) (st0 : Bool × List RxSt) :
    (s.complete e st0).cmdSeq = s.cmdSeq + 1 :=
  rfl
@[simp] theorem complete_ie (e : Option CmdError) (st0 : Bool × List RxSt) : (s.complete e st0).ie = s.ie := rfl
@[simp] theorem complete_ip (e : Option CmdError) (st0 : Bool × List RxSt) :
    (s.complete e st0).ip = completeIp e (s.stTuple != st0) s.ip :=
  rfl
@[simp] theorem complete_fftLog2n (e : Option CmdError) (st0 : Bool × List RxSt) :
    (s.complete e st0).fftLog2n = s.fftLog2n :=
  rfl
@[simp] theorem complete_throttle (e : Option CmdError) (st0 : Bool × List RxSt) :
    (s.complete e st0).throttle = s.throttle :=
  rfl
@[simp] theorem complete_thrCnt (e : Option CmdError) (st0 : Bool × List RxSt) :
    (s.complete e st0).thrCnt = s.thrCnt :=
  rfl
@[simp] theorem complete_frameCount (e : Option CmdError) (st0 : Bool × List RxSt) :
    (s.complete e st0).frameCount = s.frameCount :=
  rfl
@[simp] theorem complete_wbCf (e : Option CmdError) (st0 : Bool × List RxSt) : (s.complete e st0).wbCf = s.wbCf := rfl
@[simp] theorem complete_wbRate (e : Option CmdError) (st0 : Bool × List RxSt) :
    (s.complete e st0).wbRate = s.wbRate :=
  rfl
@[simp] theorem complete_tapsN (e : Option CmdError) (st0 : Bool × List RxSt) :
    (s.complete e st0).tapsN = s.tapsN :=
  rfl
@[simp] theorem complete_args (e : Option CmdError) (st0 : Bool × List RxSt) : (s.complete e st0).args = s.args := rfl
@[simp] theorem complete_frame (e : Option CmdError) (st0 : Bool × List RxSt) :
    (s.complete e st0).frame = s.frame :=
  rfl
@[simp] theorem complete_spec (e : Option CmdError) (st0 : Bool × List RxSt) : (s.complete e st0).spec = s.spec := rfl
@[simp] theorem complete_slots (e : Option CmdError) (st0 : Bool × List RxSt) :
    (s.complete e st0).slots = s.slots :=
  rfl
@[simp] theorem complete_mem (e : Option CmdError) (st0 : Bool × List RxSt) : (s.complete e st0).mem = s.mem := rfl
@[simp] theorem complete_hrdata (e : Option CmdError) (st0 : Bool × List RxSt) :
    (s.complete e st0).hrdata = s.hrdata :=
  rfl
@[simp] theorem complete_herr (e : Option CmdError) (st0 : Bool × List RxSt) : (s.complete e st0).herr = s.herr := rfl
@[simp] theorem complete_hostEvents (e : Option CmdError) (st0 : Bool × List RxSt) :
    (s.complete e st0).hostEvents = s.hostEvents :=
  rfl
@[simp] theorem complete_drawCount (e : Option CmdError) (st0 : Bool × List RxSt) :
    (s.complete e st0).drawCount = s.drawCount :=
  rfl

/-! ## raiseError -/

@[simp] theorem raiseError_params (e : CmdError) : (s.raiseError e).params = s.params := rfl
@[simp] theorem raiseError_num (e : CmdError) : (s.raiseError e).num = s.num := rfl
@[simp] theorem raiseError_cmd (e : CmdError) : (s.raiseError e).cmd = s.cmd := rfl
@[simp] theorem raiseError_status (e : CmdError) :
    (s.raiseError e).status = ⟨false, s.status.connected, true, errCode e, errDetail e⟩ :=
  rfl
@[simp] theorem raiseError_result (e : CmdError) : (s.raiseError e).result = 0 := rfl
@[simp] theorem raiseError_cmdSeq (e : CmdError) : (s.raiseError e).cmdSeq = s.cmdSeq + 1 := rfl
@[simp] theorem raiseError_ie (e : CmdError) : (s.raiseError e).ie = s.ie := rfl
@[simp] theorem raiseError_ip (e : CmdError) :
    (s.raiseError e).ip = completeIp (some e) (s.stTuple != s.stTuple) s.ip :=
  rfl
@[simp] theorem raiseError_fftLog2n (e : CmdError) : (s.raiseError e).fftLog2n = s.fftLog2n := rfl
@[simp] theorem raiseError_throttle (e : CmdError) : (s.raiseError e).throttle = s.throttle := rfl
@[simp] theorem raiseError_thrCnt (e : CmdError) : (s.raiseError e).thrCnt = s.thrCnt := rfl
@[simp] theorem raiseError_frameCount (e : CmdError) : (s.raiseError e).frameCount = s.frameCount := rfl
@[simp] theorem raiseError_wbCf (e : CmdError) : (s.raiseError e).wbCf = s.wbCf := rfl
@[simp] theorem raiseError_wbRate (e : CmdError) : (s.raiseError e).wbRate = s.wbRate := rfl
@[simp] theorem raiseError_tapsN (e : CmdError) : (s.raiseError e).tapsN = s.tapsN := rfl
@[simp] theorem raiseError_args (e : CmdError) : (s.raiseError e).args = s.args := rfl
@[simp] theorem raiseError_frame (e : CmdError) : (s.raiseError e).frame = s.frame := rfl
@[simp] theorem raiseError_spec (e : CmdError) : (s.raiseError e).spec = s.spec := rfl
@[simp] theorem raiseError_slots (e : CmdError) : (s.raiseError e).slots = s.slots := rfl
@[simp] theorem raiseError_mem (e : CmdError) : (s.raiseError e).mem = s.mem := rfl
@[simp] theorem raiseError_hrdata (e : CmdError) : (s.raiseError e).hrdata = s.hrdata := rfl
@[simp] theorem raiseError_herr (e : CmdError) : (s.raiseError e).herr = s.herr := rfl
@[simp] theorem raiseError_hostEvents (e : CmdError) : (s.raiseError e).hostEvents = s.hostEvents := rfl
@[simp] theorem raiseError_drawCount (e : CmdError) : (s.raiseError e).drawCount = s.drawCount := rfl

/-! ## issue -/

@[simp] theorem issue_params (w : Word) : (s.issue w).params = s.params := rfl
@[simp] theorem issue_num (w : Word) : (s.issue w).num = s.num := rfl
@[simp] theorem issue_cmd (w : Word) : (s.issue w).cmd = w := rfl
@[simp] theorem issue_status (w : Word) : (s.issue w).status = { s.status with busy := true } := rfl
@[simp] theorem issue_result (w : Word) : (s.issue w).result = s.result := rfl
@[simp] theorem issue_cmdSeq (w : Word) : (s.issue w).cmdSeq = s.cmdSeq := rfl
@[simp] theorem issue_ie (w : Word) : (s.issue w).ie = s.ie := rfl
@[simp] theorem issue_ip (w : Word) : (s.issue w).ip = s.ip := rfl
@[simp] theorem issue_fftLog2n (w : Word) : (s.issue w).fftLog2n = s.fftLog2n := rfl
@[simp] theorem issue_throttle (w : Word) : (s.issue w).throttle = s.throttle := rfl
@[simp] theorem issue_thrCnt (w : Word) : (s.issue w).thrCnt = s.thrCnt := rfl
@[simp] theorem issue_frameCount (w : Word) : (s.issue w).frameCount = s.frameCount := rfl
@[simp] theorem issue_wbCf (w : Word) : (s.issue w).wbCf = s.wbCf := rfl
@[simp] theorem issue_wbRate (w : Word) : (s.issue w).wbRate = s.wbRate := rfl
@[simp] theorem issue_tapsN (w : Word) : (s.issue w).tapsN = s.tapsN := rfl
@[simp] theorem issue_args (w : Word) : (s.issue w).args = s.args := rfl
@[simp] theorem issue_frame (w : Word) : (s.issue w).frame = s.frame := rfl
@[simp] theorem issue_spec (w : Word) : (s.issue w).spec = s.spec := rfl
@[simp] theorem issue_slots (w : Word) : (s.issue w).slots = s.slots := rfl
@[simp] theorem issue_mem (w : Word) : (s.issue w).mem = s.mem := rfl
@[simp] theorem issue_hrdata (w : Word) : (s.issue w).hrdata = s.hrdata := rfl
@[simp] theorem issue_herr (w : Word) : (s.issue w).herr = s.herr := rfl
@[simp] theorem issue_hostEvents (w : Word) : (s.issue w).hostEvents = [] := rfl
@[simp] theorem issue_drawCount (w : Word) : (s.issue w).drawCount = s.drawCount := rfl

/-! ## answer -/

@[simp] theorem answer_params (w : Word) : (s.answer w).params = s.params := rfl
@[simp] theorem answer_num (w : Word) : (s.answer w).num = s.num := rfl
@[simp] theorem answer_cmd (w : Word) : (s.answer w).cmd = s.cmd := rfl
@[simp] theorem answer_status (w : Word) : (s.answer w).status = s.status := rfl
@[simp] theorem answer_result (w : Word) : (s.answer w).result = s.result := rfl
@[simp] theorem answer_cmdSeq (w : Word) : (s.answer w).cmdSeq = s.cmdSeq := rfl
@[simp] theorem answer_ie (w : Word) : (s.answer w).ie = s.ie := rfl
@[simp] theorem answer_ip (w : Word) : (s.answer w).ip = s.ip := rfl
@[simp] theorem answer_fftLog2n (w : Word) : (s.answer w).fftLog2n = s.fftLog2n := rfl
@[simp] theorem answer_throttle (w : Word) : (s.answer w).throttle = s.throttle := rfl
@[simp] theorem answer_thrCnt (w : Word) : (s.answer w).thrCnt = s.thrCnt := rfl
@[simp] theorem answer_frameCount (w : Word) : (s.answer w).frameCount = s.frameCount := rfl
@[simp] theorem answer_wbCf (w : Word) : (s.answer w).wbCf = s.wbCf := rfl
@[simp] theorem answer_wbRate (w : Word) : (s.answer w).wbRate = s.wbRate := rfl
@[simp] theorem answer_tapsN (w : Word) : (s.answer w).tapsN = s.tapsN := rfl
@[simp] theorem answer_args (w : Word) : (s.answer w).args = s.args := rfl
@[simp] theorem answer_frame (w : Word) : (s.answer w).frame = s.frame := rfl
@[simp] theorem answer_spec (w : Word) : (s.answer w).spec = s.spec := rfl
@[simp] theorem answer_slots (w : Word) : (s.answer w).slots = s.slots := rfl
@[simp] theorem answer_mem (w : Word) : (s.answer w).mem = s.mem := rfl
@[simp] theorem answer_hrdata (w : Word) : (s.answer w).hrdata = w := rfl
@[simp] theorem answer_herr (w : Word) : (s.answer w).herr = false := rfl
@[simp] theorem answer_hostEvents (w : Word) : (s.answer w).hostEvents = s.hostEvents := rfl
@[simp] theorem answer_drawCount (w : Word) : (s.answer w).drawCount = s.drawCount := rfl

/-! ## answerDraw -/

@[simp] theorem answerDraw_params : (s.answerDraw).params = s.params := rfl
@[simp] theorem answerDraw_num : (s.answerDraw).num = s.num := rfl
@[simp] theorem answerDraw_cmd : (s.answerDraw).cmd = s.cmd := rfl
@[simp] theorem answerDraw_status : (s.answerDraw).status = s.status := rfl
@[simp] theorem answerDraw_result : (s.answerDraw).result = s.result := rfl
@[simp] theorem answerDraw_cmdSeq : (s.answerDraw).cmdSeq = s.cmdSeq := rfl
@[simp] theorem answerDraw_ie : (s.answerDraw).ie = s.ie := rfl
@[simp] theorem answerDraw_ip : (s.answerDraw).ip = s.ip := rfl
@[simp] theorem answerDraw_fftLog2n : (s.answerDraw).fftLog2n = s.fftLog2n := rfl
@[simp] theorem answerDraw_throttle : (s.answerDraw).throttle = s.throttle := rfl
@[simp] theorem answerDraw_thrCnt : (s.answerDraw).thrCnt = s.thrCnt := rfl
@[simp] theorem answerDraw_frameCount : (s.answerDraw).frameCount = s.frameCount := rfl
@[simp] theorem answerDraw_wbCf : (s.answerDraw).wbCf = s.wbCf := rfl
@[simp] theorem answerDraw_wbRate : (s.answerDraw).wbRate = s.wbRate := rfl
@[simp] theorem answerDraw_tapsN : (s.answerDraw).tapsN = s.tapsN := rfl
@[simp] theorem answerDraw_args : (s.answerDraw).args = s.args := rfl
@[simp] theorem answerDraw_frame : (s.answerDraw).frame = s.frame := rfl
@[simp] theorem answerDraw_spec : (s.answerDraw).spec = s.spec := rfl
@[simp] theorem answerDraw_slots : (s.answerDraw).slots = s.slots := rfl
@[simp] theorem answerDraw_mem : (s.answerDraw).mem = s.mem := rfl
@[simp] theorem answerDraw_hrdata : (s.answerDraw).hrdata = Config.busyReadOpen s.drawCount := rfl
@[simp] theorem answerDraw_herr : (s.answerDraw).herr = false := rfl
@[simp] theorem answerDraw_hostEvents : (s.answerDraw).hostEvents = s.hostEvents := rfl
@[simp] theorem answerDraw_drawCount : (s.answerDraw).drawCount = s.drawCount + 1 := rfl

/-! ## rejectRead -/

@[simp] theorem rejectRead_params : (s.rejectRead).params = s.params := rfl
@[simp] theorem rejectRead_num : (s.rejectRead).num = s.num := rfl
@[simp] theorem rejectRead_cmd : (s.rejectRead).cmd = s.cmd := rfl
@[simp] theorem rejectRead_status : (s.rejectRead).status = s.status := rfl
@[simp] theorem rejectRead_result : (s.rejectRead).result = s.result := rfl
@[simp] theorem rejectRead_cmdSeq : (s.rejectRead).cmdSeq = s.cmdSeq := rfl
@[simp] theorem rejectRead_ie : (s.rejectRead).ie = s.ie := rfl
@[simp] theorem rejectRead_ip : (s.rejectRead).ip = ipSet .busErr s.ip := rfl
@[simp] theorem rejectRead_fftLog2n : (s.rejectRead).fftLog2n = s.fftLog2n := rfl
@[simp] theorem rejectRead_throttle : (s.rejectRead).throttle = s.throttle := rfl
@[simp] theorem rejectRead_thrCnt : (s.rejectRead).thrCnt = s.thrCnt := rfl
@[simp] theorem rejectRead_frameCount : (s.rejectRead).frameCount = s.frameCount := rfl
@[simp] theorem rejectRead_wbCf : (s.rejectRead).wbCf = s.wbCf := rfl
@[simp] theorem rejectRead_wbRate : (s.rejectRead).wbRate = s.wbRate := rfl
@[simp] theorem rejectRead_tapsN : (s.rejectRead).tapsN = s.tapsN := rfl
@[simp] theorem rejectRead_args : (s.rejectRead).args = s.args := rfl
@[simp] theorem rejectRead_frame : (s.rejectRead).frame = s.frame := rfl
@[simp] theorem rejectRead_spec : (s.rejectRead).spec = s.spec := rfl
@[simp] theorem rejectRead_slots : (s.rejectRead).slots = s.slots := rfl
@[simp] theorem rejectRead_mem : (s.rejectRead).mem = s.mem := rfl
@[simp] theorem rejectRead_hrdata : (s.rejectRead).hrdata = 0 := rfl
@[simp] theorem rejectRead_herr : (s.rejectRead).herr = true := rfl
@[simp] theorem rejectRead_hostEvents : (s.rejectRead).hostEvents = s.hostEvents := rfl
@[simp] theorem rejectRead_drawCount : (s.rejectRead).drawCount = s.drawCount := rfl

/-! ## rejectWrite -/

@[simp] theorem rejectWrite_params : (s.rejectWrite).params = s.params := rfl
@[simp] theorem rejectWrite_num : (s.rejectWrite).num = s.num := rfl
@[simp] theorem rejectWrite_cmd : (s.rejectWrite).cmd = s.cmd := rfl
@[simp] theorem rejectWrite_status : (s.rejectWrite).status = s.status := rfl
@[simp] theorem rejectWrite_result : (s.rejectWrite).result = s.result := rfl
@[simp] theorem rejectWrite_cmdSeq : (s.rejectWrite).cmdSeq = s.cmdSeq := rfl
@[simp] theorem rejectWrite_ie : (s.rejectWrite).ie = s.ie := rfl
@[simp] theorem rejectWrite_ip : (s.rejectWrite).ip = ipSet .busErr s.ip := rfl
@[simp] theorem rejectWrite_fftLog2n : (s.rejectWrite).fftLog2n = s.fftLog2n := rfl
@[simp] theorem rejectWrite_throttle : (s.rejectWrite).throttle = s.throttle := rfl
@[simp] theorem rejectWrite_thrCnt : (s.rejectWrite).thrCnt = s.thrCnt := rfl
@[simp] theorem rejectWrite_frameCount : (s.rejectWrite).frameCount = s.frameCount := rfl
@[simp] theorem rejectWrite_wbCf : (s.rejectWrite).wbCf = s.wbCf := rfl
@[simp] theorem rejectWrite_wbRate : (s.rejectWrite).wbRate = s.wbRate := rfl
@[simp] theorem rejectWrite_tapsN : (s.rejectWrite).tapsN = s.tapsN := rfl
@[simp] theorem rejectWrite_args : (s.rejectWrite).args = s.args := rfl
@[simp] theorem rejectWrite_frame : (s.rejectWrite).frame = s.frame := rfl
@[simp] theorem rejectWrite_spec : (s.rejectWrite).spec = s.spec := rfl
@[simp] theorem rejectWrite_slots : (s.rejectWrite).slots = s.slots := rfl
@[simp] theorem rejectWrite_mem : (s.rejectWrite).mem = s.mem := rfl
@[simp] theorem rejectWrite_hrdata : (s.rejectWrite).hrdata = s.hrdata := rfl
@[simp] theorem rejectWrite_herr : (s.rejectWrite).herr = true := rfl
@[simp] theorem rejectWrite_hostEvents : (s.rejectWrite).hostEvents = s.hostEvents := rfl
@[simp] theorem rejectWrite_drawCount : (s.rejectWrite).drawCount = s.drawCount := rfl

/-! ## acceptFrame -/

@[simp] theorem acceptFrame_params : (acceptFrame s).params = s.params := rfl
@[simp] theorem acceptFrame_num : (acceptFrame s).num = s.num := rfl
@[simp] theorem acceptFrame_cmd : (acceptFrame s).cmd = s.cmd := rfl
@[simp] theorem acceptFrame_status : (acceptFrame s).status = s.status := rfl
@[simp] theorem acceptFrame_result : (acceptFrame s).result = s.result := rfl
@[simp] theorem acceptFrame_cmdSeq : (acceptFrame s).cmdSeq = s.cmdSeq := rfl
@[simp] theorem acceptFrame_ie : (acceptFrame s).ie = s.ie := rfl
@[simp] theorem acceptFrame_ip : (acceptFrame s).ip = s.ip := rfl
@[simp] theorem acceptFrame_fftLog2n : (acceptFrame s).fftLog2n = s.fftLog2n := rfl
@[simp] theorem acceptFrame_throttle : (acceptFrame s).throttle = s.throttle := rfl
@[simp] theorem acceptFrame_thrCnt : (acceptFrame s).thrCnt = s.thrCnt := rfl
@[simp] theorem acceptFrame_frameCount : (acceptFrame s).frameCount = s.frameCount + 1 := rfl
@[simp] theorem acceptFrame_wbCf : (acceptFrame s).wbCf = s.frame.cf := rfl
@[simp] theorem acceptFrame_wbRate : (acceptFrame s).wbRate = s.frame.rate := rfl
@[simp] theorem acceptFrame_tapsN : (acceptFrame s).tapsN = s.tapsN := rfl
@[simp] theorem acceptFrame_args : (acceptFrame s).args = s.args := rfl
@[simp] theorem acceptFrame_frame : (acceptFrame s).frame = s.frame := rfl
@[simp] theorem acceptFrame_spec : (acceptFrame s).spec = s.spec := rfl
@[simp] theorem acceptFrame_slots : (acceptFrame s).slots = s.slots := rfl
@[simp] theorem acceptFrame_mem : (acceptFrame s).mem = s.mem := rfl
@[simp] theorem acceptFrame_hrdata : (acceptFrame s).hrdata = s.hrdata := rfl
@[simp] theorem acceptFrame_herr : (acceptFrame s).herr = s.herr := rfl
@[simp] theorem acceptFrame_hostEvents : (acceptFrame s).hostEvents = s.hostEvents := rfl
@[simp] theorem acceptFrame_drawCount : (acceptFrame s).drawCount = s.drawCount := rfl

/-! ## spectrum -/

@[simp] theorem spectrum_params (N : Numerics) : (spectrum N s).params = s.params := rfl
@[simp] theorem spectrum_num (N : Numerics) : (spectrum N s).num = s.num := rfl
@[simp] theorem spectrum_cmd (N : Numerics) : (spectrum N s).cmd = s.cmd := rfl
@[simp] theorem spectrum_status (N : Numerics) : (spectrum N s).status = s.status := rfl
@[simp] theorem spectrum_result (N : Numerics) : (spectrum N s).result = s.result := rfl
@[simp] theorem spectrum_cmdSeq (N : Numerics) : (spectrum N s).cmdSeq = s.cmdSeq := rfl
@[simp] theorem spectrum_ie (N : Numerics) : (spectrum N s).ie = s.ie := rfl
@[simp] theorem spectrum_ip (N : Numerics) : (spectrum N s).ip = ipSet .specReady s.ip := rfl
@[simp] theorem spectrum_fftLog2n (N : Numerics) : (spectrum N s).fftLog2n = s.fftLog2n := rfl
@[simp] theorem spectrum_throttle (N : Numerics) : (spectrum N s).throttle = s.throttle := rfl
@[simp] theorem spectrum_thrCnt (N : Numerics) : (spectrum N s).thrCnt = s.thrCnt := rfl
@[simp] theorem spectrum_frameCount (N : Numerics) : (spectrum N s).frameCount = s.frameCount := rfl
@[simp] theorem spectrum_wbCf (N : Numerics) : (spectrum N s).wbCf = s.wbCf := rfl
@[simp] theorem spectrum_wbRate (N : Numerics) : (spectrum N s).wbRate = s.wbRate := rfl
@[simp] theorem spectrum_tapsN (N : Numerics) : (spectrum N s).tapsN = s.tapsN := rfl
@[simp] theorem spectrum_args (N : Numerics) : (spectrum N s).args = s.args := rfl
@[simp] theorem spectrum_frame (N : Numerics) : (spectrum N s).frame = s.frame := rfl
@[simp] theorem spectrum_spec (N : Numerics) :
    (spectrum N s).spec = ⟨s.spec.seq + 1, BitVec.ofNat 32 s.fftSize, s.frame.cf, s.frame.rate, s.frame.ts⟩ :=
  rfl
@[simp] theorem spectrum_slots (N : Numerics) : (spectrum N s).slots = s.slots := rfl
@[simp] theorem spectrum_mem (N : Numerics) :
    (spectrum N s).mem = memWriteWords s.mem specBase (specWords N s.drawCount (spectrumDb N s.fftLog2n.toNat s.mem)) :=
  rfl
@[simp] theorem spectrum_hrdata (N : Numerics) : (spectrum N s).hrdata = s.hrdata := rfl
@[simp] theorem spectrum_herr (N : Numerics) : (spectrum N s).herr = s.herr := rfl
@[simp] theorem spectrum_hostEvents (N : Numerics) : (spectrum N s).hostEvents = s.hostEvents := rfl
@[simp] theorem spectrum_drawCount (N : Numerics) : (spectrum N s).drawCount = s.drawCount + s.fftSize := rfl

/-! ## fanOutStep -/

@[simp] theorem fanOutStep_params (N : Numerics) : (fanOutStep N s).params = s.params := rfl
@[simp] theorem fanOutStep_num (N : Numerics) : (fanOutStep N s).num = s.num := rfl
@[simp] theorem fanOutStep_cmd (N : Numerics) : (fanOutStep N s).cmd = s.cmd := rfl
@[simp] theorem fanOutStep_status (N : Numerics) : (fanOutStep N s).status = s.status := rfl
@[simp] theorem fanOutStep_result (N : Numerics) : (fanOutStep N s).result = s.result := rfl
@[simp] theorem fanOutStep_cmdSeq (N : Numerics) : (fanOutStep N s).cmdSeq = s.cmdSeq := rfl
@[simp] theorem fanOutStep_ie (N : Numerics) : (fanOutStep N s).ie = s.ie := rfl
@[simp] theorem fanOutStep_ip (N : Numerics) :
    (fanOutStep N s).ip = (fanOut N s.params s.frame 0 s.slots s.mem s.ip).2.2 :=
  rfl
@[simp] theorem fanOutStep_fftLog2n (N : Numerics) : (fanOutStep N s).fftLog2n = s.fftLog2n := rfl
@[simp] theorem fanOutStep_throttle (N : Numerics) : (fanOutStep N s).throttle = s.throttle := rfl
@[simp] theorem fanOutStep_thrCnt (N : Numerics) : (fanOutStep N s).thrCnt = s.thrCnt := rfl
@[simp] theorem fanOutStep_frameCount (N : Numerics) : (fanOutStep N s).frameCount = s.frameCount := rfl
@[simp] theorem fanOutStep_wbCf (N : Numerics) : (fanOutStep N s).wbCf = s.wbCf := rfl
@[simp] theorem fanOutStep_wbRate (N : Numerics) : (fanOutStep N s).wbRate = s.wbRate := rfl
@[simp] theorem fanOutStep_tapsN (N : Numerics) : (fanOutStep N s).tapsN = s.tapsN := rfl
@[simp] theorem fanOutStep_args (N : Numerics) : (fanOutStep N s).args = s.args := rfl
@[simp] theorem fanOutStep_frame (N : Numerics) : (fanOutStep N s).frame = s.frame := rfl
@[simp] theorem fanOutStep_spec (N : Numerics) : (fanOutStep N s).spec = s.spec := rfl
@[simp] theorem fanOutStep_slots (N : Numerics) :
    (fanOutStep N s).slots = (fanOut N s.params s.frame 0 s.slots s.mem s.ip).1 :=
  rfl
@[simp] theorem fanOutStep_mem (N : Numerics) :
    (fanOutStep N s).mem = (fanOut N s.params s.frame 0 s.slots s.mem s.ip).2.1 :=
  rfl
@[simp] theorem fanOutStep_hrdata (N : Numerics) : (fanOutStep N s).hrdata = s.hrdata := rfl
@[simp] theorem fanOutStep_herr (N : Numerics) : (fanOutStep N s).herr = s.herr := rfl
@[simp] theorem fanOutStep_hostEvents (N : Numerics) : (fanOutStep N s).hostEvents = s.hostEvents := rfl
@[simp] theorem fanOutStep_drawCount (N : Numerics) : (fanOutStep N s).drawCount = s.drawCount := rfl

/-! ## resetRegisters -/

@[simp] theorem resetRegisters_params : (s.resetRegisters).params = s.params := rfl
@[simp] theorem resetRegisters_num : (s.resetRegisters).num = s.num := rfl
@[simp] theorem resetRegisters_cmd : (s.resetRegisters).cmd = 0 := rfl
@[simp] theorem resetRegisters_status : (s.resetRegisters).status = ⟨false, false, false, 0, 0⟩ := rfl
@[simp] theorem resetRegisters_result : (s.resetRegisters).result = 0 := rfl
@[simp] theorem resetRegisters_cmdSeq : (s.resetRegisters).cmdSeq = 0 := rfl
@[simp] theorem resetRegisters_ie : (s.resetRegisters).ie = 0 := rfl
@[simp] theorem resetRegisters_ip : (s.resetRegisters).ip = 0 := rfl
@[simp] theorem resetRegisters_fftLog2n : (s.resetRegisters).fftLog2n = BitVec.ofNat 5 s.params.resetLog2n := rfl
@[simp] theorem resetRegisters_throttle : (s.resetRegisters).throttle = BitVec.ofNat 32 s.params.resetThrottle := rfl
@[simp] theorem resetRegisters_thrCnt : (s.resetRegisters).thrCnt = 0 := rfl
@[simp] theorem resetRegisters_frameCount : (s.resetRegisters).frameCount = 0 := rfl
@[simp] theorem resetRegisters_wbCf : (s.resetRegisters).wbCf = 0 := rfl
@[simp] theorem resetRegisters_wbRate : (s.resetRegisters).wbRate = 0 := rfl
@[simp] theorem resetRegisters_tapsN : (s.resetRegisters).tapsN = 0 := rfl
@[simp] theorem resetRegisters_args : (s.resetRegisters).args = ⟨0, 0, 0, 0, 0, 0, 0, 0, 0, 0, 0, 0, 0⟩ := rfl
@[simp] theorem resetRegisters_frame : (s.resetRegisters).frame = ⟨0, 0, 0, 0⟩ := rfl
@[simp] theorem resetRegisters_spec : (s.resetRegisters).spec = ⟨0, 0, 0, 0, 0⟩ := rfl
@[simp] theorem resetRegisters_slots :
    (s.resetRegisters).slots = (List.range s.params.numRx).map fun k => clearedSlot (s.drawCount + k) :=
  rfl
@[simp] theorem resetRegisters_mem : (s.resetRegisters).mem = s.mem := rfl
@[simp] theorem resetRegisters_hrdata : (s.resetRegisters).hrdata = s.hrdata := rfl
@[simp] theorem resetRegisters_herr : (s.resetRegisters).herr = s.herr := rfl
@[simp] theorem resetRegisters_hostEvents : (s.resetRegisters).hostEvents = s.hostEvents := rfl
@[simp] theorem resetRegisters_drawCount : (s.resetRegisters).drawCount = s.drawCount + s.params.numRx := rfl

/-! ## stTuple -/

@[simp] theorem stTuple_setResult (w : Word) : (s.setResult w).stTuple = s.stTuple := rfl
@[simp] theorem stTuple_raise (e : Event) : (s.raise e).stTuple = s.stTuple := rfl
@[simp] theorem stTuple_clearIp (v : Word) : (s.clearIp v).stTuple = s.stTuple := rfl
@[simp] theorem stTuple_putTaps (l : List F64) (w : Word) : (s.putTaps l w).stTuple = s.stTuple := rfl
@[simp] theorem stTuple_issue (w : Word) : (s.issue w).stTuple = s.stTuple := rfl

end Sys2Proof.Machine
end

