-- ==== Sys2Proof/Laws/Bus.lean ====
section
/-! SUPPORT. What a host event can do, said once: the step on each event, the register map, and an access to each
window. -/

namespace Sys2Proof.Machine

/-! ## The step on each event -/

theorem step_read {s : State} {a : Addr} {es : List HostEvent} (h : s.hostEvents = .read a :: es) :
    step s = .next (busRead s.num a { s with hostEvents := es }) := by unfold step; rw [h]; rfl

theorem step_write {s : State} {a : Addr} {v : Word} {es : List HostEvent} (h : s.hostEvents = .write a v :: es) :
    step s = .next (busWrite a v { s with hostEvents := es }) := by unfold step; rw [h]

theorem step_rst {s : State} {es : List HostEvent} (h : s.hostEvents = .rst :: es) :
    step s = .next (resetPort { s with hostEvents := es }) := by unfold step; rw [h]

theorem step_engine {s : State} {es : List HostEvent} (h : s.hostEvents = .engine :: es) :
    step s = engineTurn { s with hostEvents := es } := by unfold step; rw [h]

theorem step_nil {s : State} (h : s.hostEvents = []) : step s = engineTurn s := by unfold step; rw [h]

/-! ## The register map -/

theorem windowOf_csr {p : Params} {a : Nat} (h : a < 0x1000) : windowOf p a = .csr := by simp [windowOf, h]

theorem csrAt_global {n o : Nat} (h : o < 0x400) : csrAt n o = (globalMap.lookup o).getD .reserved := if_pos h

theorem csrAt_slot {n k o : Nat} (hk : k < n) (ho : o < 0x80) :
    csrAt n (0x400 + 0x80 * k + o) = (slotMap.lookup o).elim .reserved (.slot k) := by
  unfold csrAt
  rw [if_neg (by omega)]
  simp only [show (0x400 + 0x80 * k + o - 0x400) / 0x80 = k by omega, hk, if_true,
    show (0x400 + 0x80 * k + o - 0x400) % 0x80 = o by omega]
  cases slotMap.lookup o <;> rfl

/-- What a CSR offset selects is a register of the global map, a register of an existing slot's bank, or reserved. -/
theorem csrAt_cases (n o : Nat) :
    (o < 0x400 ∧ csrAt n o = (globalMap.lookup o).getD .reserved) ∨
      (∃ k r, k < n ∧ o = 0x400 + 0x80 * k + (o - 0x400) % 0x80 ∧ slotMap.lookup ((o - 0x400) % 0x80) = some r ∧
        csrAt n o = .slot k r) ∨
      (0x400 ≤ o ∧ csrAt n o = .reserved) := by
  unfold csrAt
  split_ifs with h
  · exact .inl ⟨h, rfl⟩
  · right
    simp only
    split_ifs with hk
    · cases hl : slotMap.lookup ((o - 0x400) % 0x80) with
      | none => exact .inr ⟨by omega, rfl⟩
      | some r => exact .inl ⟨_, r, hk, by omega, rfl, rfl⟩
    · exact .inr ⟨by omega, rfl⟩

/-- A table with distinct entries is read back by what it holds. -/
theorem lookup_injective {α β : Type} [BEq α] [LawfulBEq α] {l : List (α × β)} (h : l.Pairwise fun x y => x.2 ≠ y.2)
    {a b : α} {c : β} (ha : l.lookup a = some c) (hb : l.lookup b = some c) : a = b := by
  induction l with
  | nil => simp at ha
  | cons d l ih =>
    obtain ⟨k, v⟩ := d
    obtain ⟨h1, h2⟩ := List.pairwise_cons.1 h
    have mem : ∀ {x}, l.lookup x = some c → ∃ y, (y, c) ∈ l := by
      intro x hx
      obtain ⟨l₁, l₂, hl, -⟩ := List.lookup_eq_some_iff.1 hx
      exact ⟨x, hl ▸ by simp⟩
    simp only [List.lookup_cons] at ha hb
    split at ha <;> split at hb
    · simp_all
    · obtain ⟨y, hy⟩ := mem hb
      exact absurd (Option.some.inj ha) (h1 _ hy)
    · obtain ⟨y, hy⟩ := mem ha
      exact absurd (Option.some.inj hb) (h1 _ hy)
    · exact ih h2 ha hb

/-- Every register of the global map stands at one offset. -/
theorem csrAt_eq_global {n o o' : Nat} {r : Csr} (ho : o < 0x400) (h : globalMap.lookup o = some r) :
    csrAt n o' = r ↔ o' = o := by
  have hr : r ≠ .reserved := by
    rintro rfl
    obtain ⟨l₁, l₂, hl, -⟩ := List.lookup_eq_some_iff.1 h
    have : (o, Csr.reserved) ∈ globalMap := by rw [hl]; simp
    revert this; simp [globalMap]
  have hs : ∀ k q, r ≠ .slot k q := by
    rintro k q rfl
    obtain ⟨l₁, l₂, hl, -⟩ := List.lookup_eq_some_iff.1 h
    have : (o, Csr.slot k q) ∈ globalMap := by rw [hl]; simp
    revert this; simp [globalMap]
  constructor
  · intro hc
    rcases csrAt_cases n o' with ⟨-, h2⟩ | ⟨k, q, -, -, -, h2⟩ | ⟨-, h2⟩
    · rw [hc] at h2
      cases hl : globalMap.lookup o' with
      | none => rw [hl] at h2; exact absurd h2 hr
      | some q =>
        rw [hl] at h2
        obtain rfl : r = q := h2
        exact lookup_injective (by decide) hl h
    · exact absurd (hc.symm.trans h2) (hs k q)
    · exact absurd (hc.symm.trans h2) hr
  · rintro rfl
    rw [csrAt_global ho, h]; rfl

theorem csrAt_eq_cmd {n o : Nat} : csrAt n o = .cmd ↔ o = 0x018 := csrAt_eq_global (by norm_num) rfl

theorem csrAt_eq_ie {n o : Nat} : csrAt n o = .ie ↔ o = 0x028 := csrAt_eq_global (by norm_num) rfl

theorem csrAt_eq_ip {n o : Nat} : csrAt n o = .ip ↔ o = 0x02C := csrAt_eq_global (by norm_num) rfl

/-- RX_AUD_RPTR of slot `k` stands at one offset. -/
theorem csrAt_eq_rptr {n o k : Nat} : csrAt n o = .slot k .audRptr ↔ k < n ∧ o = 0x400 + 0x80 * k + 0x64 := by
  constructor
  · intro h
    rcases csrAt_cases n o with ⟨ho, h2⟩ | ⟨j, q, hj, he, hq, h2⟩ | ⟨-, h2⟩
    · rw [h] at h2
      cases hl : globalMap.lookup o with
      | none => rw [hl] at h2; exact absurd h2 (by simp)
      | some r =>
        rw [hl] at h2
        obtain ⟨l₁, l₂, hm, -⟩ := List.lookup_eq_some_iff.1 hl
        have : (o, r) ∈ globalMap := by rw [hm]; simp
        rw [show r = .slot k .audRptr from h2.symm] at this
        revert this; simp [globalMap]
    · rw [h] at h2
      obtain ⟨rfl, rfl⟩ : k = j ∧ SlotReg.audRptr = q := by simpa using h2
      refine ⟨hj, ?_⟩
      have := lookup_injective (l := slotMap) (by decide) hq (show slotMap.lookup 0x64 = some .audRptr from rfl)
      omega
    · rw [h] at h2; cases h2
  · rintro ⟨hk, rfl⟩
    exact csrAt_slot hk (by norm_num)

/-! ## Accesses -/

/-- A rejected read (R97). -/
theorem busRead_bad {N : Numerics} {a : Addr} {s : State} (h : badAddress s.params a.toNat = true) :
    busRead N a s = s.rejectRead := by simp only [busRead, h, if_true]

/-- A rejected write (R97). -/
theorem busWrite_bad {a : Addr} {v : Word} {s : State} (h : badWrite s.params a.toNat = true) :
    busWrite a v s = s.rejectWrite := by simp only [busWrite, h, if_true]

theorem badAddress_csr {p : Params} {a : Nat} (h1 : a % 4 = 0) (h2 : a < 0x1000) : badAddress p a = false := by
  simp [badAddress, windowOf_csr h2, h1]

theorem badWrite_csr {p : Params} {a : Nat} (h1 : a % 4 = 0) (h2 : a < 0x1000) : badWrite p a = false := by
  simp [badWrite, badAddress_csr h1 h2, windowOf_csr h2]

/-- A read of an aligned CSR offset: a draw of an engine-written register while BUSY, its value otherwise (R107). -/
theorem busRead_csr {N : Numerics} {a : Addr} {s : State} (h1 : a.toNat % 4 = 0) (h2 : a.toNat < 0x1000) :
    busRead N a s =
      if s.status.busy && (csrAt s.params.numRx a.toNat).isDraw then s.answerDraw
      else s.answer (readCsr N s (csrAt s.params.numRx a.toNat)) := by
  simp [busRead, badAddress_csr h1 h2, windowOf_csr h2]

/-- A read of one of the memories (R92 to R95, R107): FRAME_MEM is exact, the others a draw while BUSY. -/
theorem busRead_mem {N : Numerics} {a : Addr} {s : State} (h1 : a.toNat % 4 = 0)
    (h2 : windowOf s.params a.toNat ∈ [Window.tap, Window.spec, Window.frame, Window.audio]) :
    busRead N a s =
      if s.status.busy && decide (windowOf s.params a.toNat ≠ .frame) then s.answerDraw
      else s.answer (memRead32 s.mem a.toNat) := by
  simp only [List.mem_cons, List.not_mem_nil, or_false] at h2
  rcases h2 with h | h | h | h <;> simp [busRead, badAddress, h, h1]

/-- A write to an aligned CSR offset: a hazard while BUSY, but for IE and IP; the register's write otherwise (R315). -/
theorem busWrite_csr {a : Addr} {v : Word} {s : State} (h1 : a.toNat % 4 = 0) (h2 : a.toNat < 0x1000) :
    busWrite a v s =
      if s.status.busy = true ∧ a.toNat ≠ 0x028 ∧ a.toNat ≠ 0x02C then { (s.raise .hazard) with herr := false }
      else { (writeCsr v s (csrAt s.params.numRx a.toNat)) with herr := false } := by
  simp only [busWrite, badWrite_csr h1 h2, busyWritable, acceptWrite, windowOf_csr h2, csrAt_eq_ie, csrAt_eq_ip]
  simp

/-- A write to FRAME_MEM: a hazard while BUSY, a store otherwise (R94, R315). -/
theorem busWrite_frame {a : Addr} {v : Word} {s : State} (h1 : a.toNat % 4 = 0)
    (h2 : windowOf s.params a.toNat = .frame) :
    busWrite a v s =
      if s.status.busy = true then { (s.raise .hazard) with herr := false }
      else { s with mem := memWrite32 s.mem a.toNat v, herr := false } := by
  simp [busWrite, badWrite, badAddress, h1, h2, busyWritable, acceptWrite]

/-- What a write can be: rejected, a hazard, or accepted (R97, R315). -/
theorem busWrite_cases (a : Addr) (v : Word) (s : State) :
    (badWrite s.params a.toNat = true ∧ busWrite a v s = s.rejectWrite) ∨
      (badWrite s.params a.toNat = false ∧ s.status.busy = true ∧ busyWritable s.params a.toNat = false ∧
        busWrite a v s = { (s.raise .hazard) with herr := false }) ∨
      (badWrite s.params a.toNat = false ∧ (s.status.busy = true → busyWritable s.params a.toNat = true) ∧
        busWrite a v s = { (acceptWrite a.toNat v s) with herr := false }) := by
  cases h1 : badWrite s.params a.toNat <;> cases h2 : s.status.busy <;> cases h3 : busyWritable s.params a.toNat <;>
    simp [busWrite, h1, h2, h3]

/-- What a read can be: rejected, exact, or a draw (R97, R107). -/
theorem busRead_cases (N : Numerics) (a : Addr) (s : State) :
    (badAddress s.params a.toNat = true ∧ busRead N a s = s.rejectRead) ∨
      (badAddress s.params a.toNat = false ∧ ∃ w, busRead N a s = s.answer w) ∨
      (badAddress s.params a.toNat = false ∧ s.status.busy = true ∧ busRead N a s = s.answerDraw) := by
  cases h1 : badAddress s.params a.toNat with
  | true => exact .inl ⟨rfl, busRead_bad h1⟩
  | false =>
    have h4 : a.toNat % 4 = 0 := by
      by_contra h; simp [badAddress, h] at h1
    have mem (hw : windowOf s.params a.toNat ∈ [Window.tap, Window.spec, Window.frame, Window.audio]) :
        (false = true ∧ busRead N a s = s.rejectRead) ∨ (false = false ∧ ∃ w, busRead N a s = s.answer w) ∨
          (false = false ∧ s.status.busy = true ∧ busRead N a s = s.answerDraw) := by
      rw [busRead_mem h4 hw]
      split_ifs with h
      · exact .inr (.inr ⟨rfl, (Bool.and_eq_true _ _ ▸ h).1, rfl⟩)
      · exact .inr (.inl ⟨rfl, _, rfl⟩)
    cases hw : windowOf s.params a.toNat with
    | unmapped => simp [badAddress, hw] at h1
    | csr =>
      simp only [busRead, h1, hw, Bool.false_eq_true, if_false]
      split_ifs with h
      · exact .inr (.inr ⟨trivial, (Bool.and_eq_true _ _ ▸ h).1, rfl⟩)
      · exact .inr (.inl ⟨trivial, _, rfl⟩)
    | tap => exact mem (by simp [hw])
    | spec => exact mem (by simp [hw])
    | frame => exact mem (by simp [hw])
    | audio => exact mem (by simp [hw])

end Sys2Proof.Machine
end

