-- ==== Sys2Proof/Laws/Commands.lean ====
section
/-! SUPPORT. What the decoder, the command step and each command's rule can do, said once: if a rule succeeds, under which
checks and with which state. -/

namespace Sys2Proof.Machine

/-! ## Decoder -/

theorem opcodeOf_byte (o : Opcode) : opcodeOf o.byte = some o := by cases o <;> rfl

theorem byte_of_opcodeOf {b : BitVec 8} {o : Opcode} (h : opcodeOf b = some o) : o.byte = b := by
  have := List.find?_some h
  simpa using this

theorem decode_ok_iff {numRx : Nat} {w : Word} {i : Instr} :
    decode numRx w = .ok i ↔
      ∃ o, opcodeOf (opcOf w) = some o ∧ rsvOf w = 0 ∧ (o.isSlot = false → slotOf w = 0) ∧
        (o.isSlot = true → (slotOf w).toNat < numRx) ∧ o.instr (slotOf w) = i := by
  unfold decode
  split
  · simp_all
  · rename_i o ho
    simp only [ho, Option.some.injEq, exists_eq_left']
    split_ifs with h1 h2 h3
    · simp_all
    · simp_all
    · simp [h3.1, Nat.not_lt.2 h3.2]
    · cases hs : o.isSlot <;> simp_all

/-! ## The command step (R250) -/

theorem runCommand_ok {body : State → Except CmdError State} {s t : State} (h : body s = .ok t) :
    runCommand body s = t.complete none s.stTuple := by
  unfold runCommand; rw [h]

theorem runCommand_error {body : State → Except CmdError State} {s : State} {e : CmdError} (h : body s = .error e) :
    runCommand body s = s.raiseError e := by
  unfold runCommand; rw [h]

/-- A command step asks its rule about the state it starts in only. -/
theorem runCommand_congr {f g : State → Except CmdError State} {s : State} (h : f s = g s) :
    runCommand f s = runCommand g s := by
  unfold runCommand; rw [h]

/-- A command step completes the state its rule gives, or the state it found with the error recorded. -/
theorem runCommand_cases (body : State → Except CmdError State) (s : State) :
    (∃ t, body s = .ok t ∧ runCommand body s = t.complete none s.stTuple) ∨
      ∃ e, body s = .error e ∧ runCommand body s = s.raiseError e := by
  cases h : body s with
  | ok t => exact .inl ⟨t, rfl, runCommand_ok h⟩
  | error e => exact .inr ⟨e, rfl, runCommand_error h⟩

theorem withSlot_of_some {k : BitVec 8} {s : State} {f : RxSlot → Except CmdError State} {x : RxSlot}
    (h : s.slots[k.toNat]? = some x) : withSlot k s f = f x := by
  unfold withSlot; rw [h]

theorem withSlot_ok_iff {k : BitVec 8} {s t : State} {f : RxSlot → Except CmdError State} :
    withSlot k s f = .ok t ↔ ∃ x, s.slots[k.toNat]? = some x ∧ f x = .ok t := by
  unfold withSlot
  cases s.slots[k.toNat]? <;> simp

/-! ## The rules of the commands -/

theorem setFftBody_ok_iff {s t : State} :
    setFftBody s = .ok t ↔
      minLog2n ≤ s.args.log2n.toNat ∧ s.args.log2n.toNat ≤ s.params.maxLog2n ∧ s.args.throttle ≠ 0 ∧
        { s with fftLog2n := s.args.log2n.setWidth 5, throttle := s.args.throttle, thrCnt := 0, result := 0 } = t := by
  unfold setFftBody
  split_ifs with h1 h2
  · exact ⟨fun h => by simp at h, fun h => by omega⟩
  · simp [h2]
  · have h3 : minLog2n ≤ s.args.log2n.toNat ∧ s.args.log2n.toNat ≤ s.params.maxLog2n := by omega
    simp only [h3.1, h3.2, true_and, Except.ok.injEq]
    exact ⟨fun h => ⟨h2, h⟩, fun h => h.2⟩

theorem connectBody_ok_iff {N : Numerics} {s t : State} :
    connectBody N s = .ok t ↔
      f64FinitePos s.args.rate = true ∧ f64IsFinite s.args.cf = true ∧
        { s with
          status := { s.status with connected := true }
          wbCf := s.args.cf
          wbRate := s.args.rate
          slots := s.slots.map (connectedSlot N s.params.maxTaps s.args.cf s.args.rate)
          ip := ipSetIf (s.slots.any (connectFails N s.params.maxTaps s.args.cf s.args.rate)) .cfgFault s.ip
          result := BitVec.ofNat 32 (s.slots.countP (connectsOk N s.params.maxTaps s.args.cf s.args.rate)) } = t := by
  unfold connectBody
  split_ifs with h1 h2
  · simp [h1]
  · simp [h2]
  · simp [h1, h2]

theorem designFirBody_ok_iff {N : Numerics} {s t : State} :
    designFirBody N s = .ok t ↔
      ∃ taps, design N s.params.maxTaps s.args.nTaps.toNat s.args.cutoff = .ok taps ∧
        (s.putTaps taps s.args.nTaps).setResult s.args.nTaps = t := by
  unfold designFirBody
  cases design N s.params.maxTaps s.args.nTaps.toNat s.args.cutoff <;> simp

theorem retuneRxBody_ok_iff {N : Numerics} {k : BitVec 8} {s t : State} :
    retuneRxBody N k s = .ok t ↔
      ∃ x, s.slots[k.toNat]? = some x ∧
        ((x.regs.st = .empty ∧ s.setResult 0 = t) ∨
          (x.regs.st ≠ .empty ∧ f64IsFinite s.args.cf = true ∧
            (x.regs.st = .unconfigured ∨ offsetOk (N.sub s.args.cf x.regs.pcf) x.regs.prate = true) ∧
            (s.setSlot k.toNat (retuned N s.args.cf x)).setResult 1 = t)) := by
  unfold retuneRxBody
  rw [withSlot_ok_iff]
  refine exists_congr fun x => and_congr_right fun _ => ?_
  split_ifs with h1 h2 h3
  · simp [h1]
  · simp [h1, h2]
  · simp [h1, h3.1, h3.2]
  · have h4 : x.regs.st = .unconfigured ∨ offsetOk (N.sub s.args.cf x.regs.pcf) x.regs.prate = true := by
      by_cases h : x.regs.st = .unconfigured
      · exact .inl h
      · simpa [h] using h3
    simp only [Bool.not_eq_false] at h2
    simp [h1, h2, h4]

theorem stopRxBody_ok_iff {k : BitVec 8} {s t : State} :
    stopRxBody k s = .ok t ↔
      ∃ x, s.slots[k.toNat]? = some x ∧ (x.regs.st = .configured ∨ x.regs.st = .stopped) ∧
        (s.setSlot k.toNat { x with regs := { x.regs with st := .stopped } }).setResult 0 = t := by
  unfold stopRxBody
  rw [withSlot_ok_iff]
  refine exists_congr fun x => and_congr_right fun _ => ?_
  cases x.regs.st <;> simp

theorem configureRxBody_ok_iff {N : Numerics} {k : BitVec 8} {s t : State} :
    configureRxBody N k s = .ok t ↔
      ∃ x y, s.slots[k.toNat]? = some x ∧ x.regs.st ≠ .empty ∧ s.status.connected = true ∧
        configure N s.params.maxTaps s.wbCf s.wbRate x = .ok y ∧ (s.setSlot k.toNat y).setResult 1 = t := by
  unfold configureRxBody
  rw [withSlot_ok_iff]
  refine exists_congr fun x => ?_
  rw [exists_and_left]
  refine and_congr_right fun _ => ?_
  split_ifs with h1 h2
  · simp [h1]
  · simp [h2]
  · simp only [Bool.not_eq_false] at h2
    cases configure N s.params.maxTaps s.wbCf s.wbRate x <;> simp [h1, h2]

theorem readTapsBody_ok_iff {k : BitVec 8} {s t : State} :
    readTapsBody k s = .ok t ↔
      ∃ x, s.slots[k.toNat]? = some x ∧ (x.regs.st = .configured ∨ x.regs.st = .stopped) ∧
        (s.putTaps (x.hidden.taps.take x.regs.nTaps.toNat) x.regs.nTaps).setResult x.regs.nTaps = t := by
  unfold readTapsBody
  rw [withSlot_ok_iff]
  refine exists_congr fun x => and_congr_right fun _ => ?_
  cases x.regs.st <;> simp

theorem addRxBody_ok_iff {N : Numerics} {k : BitVec 8} {s t : State} :
    addRxBody N k s = .ok t ↔
      ∃ x m y, s.slots[k.toNat]? = some x ∧ x.regs.st = .empty ∧ addChecks s.params s.args = .ok m ∧
        (if s.status.connected = false then y = newSlot s.params s.args m x.hidden
          else configure N s.params.maxTaps s.wbCf s.wbRate (newSlot s.params s.args m x.hidden) = .ok y) ∧
        (s.setSlot k.toNat y).setResult 1 = t := by
  unfold addRxBody
  rw [withSlot_ok_iff]
  refine exists_congr fun x => ?_
  simp only [exists_and_left]
  refine and_congr_right fun _ => ?_
  by_cases h1 : x.regs.st = .empty
  · cases addChecks s.params s.args with
    | error e => simp [h1]
    | ok m =>
      cases h2 : s.status.connected with
      | false => simp [h1]
      | true =>
        simp only [h1, ne_eq, not_true_eq_false, if_false, Bool.true_eq_false, Except.ok.injEq, exists_eq_left', true_and]
        cases configure N s.params.maxTaps s.wbCf s.wbRate (newSlot s.params s.args m x.hidden) <;>
          simp
  · simp [h1]

theorem removeRxBody_ok_iff {k : BitVec 8} {s t : State} :
    removeRxBody k s = .ok t ↔
      ∃ x, s.slots[k.toNat]? = some x ∧
        ((x.regs.st = .empty ∧ s.setResult 0 = t) ∨
          (x.regs.st ≠ .empty ∧
            { s.setSlot k.toNat (clearedSlot s.drawCount) with drawCount := s.drawCount + 1 }.setResult 1 = t)) := by
  unfold removeRxBody
  rw [withSlot_ok_iff]
  refine exists_congr fun x => and_congr_right fun _ => ?_
  split_ifs with h1 <;> simp [h1]

theorem pushFrameBody_ok_iff {N : Numerics} {s t : State} :
    pushFrameBody N s = .ok t ↔
      s.status.connected = true ∧ s.frame.nPairs.toNat ≤ s.params.maxFramePairs ∧ f64FinitePos s.frame.rate = true ∧
        f64IsFinite s.frame.cf = true ∧
        (fanOutStep N (throttleAndSpectrum N (acceptFrame s))).setResult (if s.specDue then 1 else 0) = t := by
  unfold pushFrameBody
  by_cases h1 : s.status.connected = false
  · simp [h1]
  by_cases h2 : s.params.maxFramePairs < s.frame.nPairs.toNat
  · simp [h1, h2]
  by_cases h3 : f64FinitePos s.frame.rate = false
  · simp [h1, h2, h3]
  by_cases h4 : f64IsFinite s.frame.cf = false
  · simp [h1, h2, h3, h4]
  simp only [Bool.not_eq_false] at h1 h3 h4
  simp [h1, h2, h3, h4, Nat.not_lt.1 h2]

end Sys2Proof.Machine
end

