-- ==== Sys2Proof/Laws/Dsp.lean ====
section
/-! SUPPORT. What each shared operation of the signal path can do, said once: the designer, configure, the phase wrap, the
ring, one input pair, one frame of a slot, the fan-out, and the throttle. -/

namespace Sys2Proof.Machine

/-! ## The designer and configure -/

/-- The mirrored tap is computed from the same operands (R141, R171). -/
theorem bh_mirror (N : Numerics) {n L : Nat} (h : n < L) : bh N (L - 1 - n) L = bh N n L := by
  unfold bh
  rw [show min (L - 1 - n) (L - 1 - (L - 1 - n)) = min n (L - 1 - n) by omega]

theorem rawTap_mirror (N : Numerics) {T : Nat} {c : F64} {n : Nat} (hT : T % 2 = 1) (h : n < T) :
    rawTap N T c (T - 1 - n) = rawTap N T c n := by
  have hk : (if T - 1 - n < (T - 1) / 2 then (T - 1) / 2 - (T - 1 - n) else T - 1 - n - (T - 1) / 2) =
      if n < (T - 1) / 2 then (T - 1) / 2 - n else n - (T - 1) / 2 := by
    split_ifs <;> omega
  simp only [rawTap, hk, bh_mirror N h]

theorem design_ok_iff {N : Numerics} {maxTaps T : Nat} {c : F64} {taps : List F64} :
    design N maxTaps T c = .ok taps ↔
      T % 2 = 1 ∧ 3 ≤ T ∧ T ≤ maxTaps ∧ f64Lt 0 c = true ∧ f64Lt c f64Half = true ∧
        f64FinitePos (sumUp N (rawTaps N T c)) = true ∧
        (rawTaps N T c).map (fun r => N.div r (sumUp N (rawTaps N T c))) = taps := by
  simp only [design]
  split_ifs with h1 h2 h3 h4
  · exact ⟨fun h => (nomatch h), fun h => by omega⟩
  · exact ⟨fun h => (nomatch h), fun h => by omega⟩
  · refine ⟨fun h => (nomatch h), fun ⟨_, _, _, ha, hb, _⟩ => ?_⟩
    rw [ha, hb] at h3
    exact absurd h3 (by decide)
  · exact ⟨fun h => (nomatch h), fun ⟨_, _, _, _, _, hs, _⟩ => absurd (h4.symm.trans hs) (by decide)⟩
  · simp only [Bool.not_eq_false, Bool.and_eq_true] at h3 h4
    refine ⟨fun h => ⟨by omega, by omega, by omega, h3.1, h3.2, h4, Except.ok.inj h⟩, fun h => ?_⟩
    rw [h.2.2.2.2.2.2]

theorem design_length {N : Numerics} {maxTaps T : Nat} {c : F64} {taps : List F64}
    (h : design N maxTaps T c = .ok taps) : taps.length = T := by
  obtain ⟨-, -, -, -, -, -, rfl⟩ := design_ok_iff.1 h
  simp [rawTaps]

theorem configure_ok_iff {N : Numerics} {maxTaps : Nat} {pcf prate : F64} {x y : RxSlot} :
    configure N maxTaps pcf prate x = .ok y ↔
      offsetOk (N.sub x.regs.cf pcf) prate = true ∧ f64Lt (N.div prate x.regs.outRate) f64TwoPow32 = true ∧
        ∃ taps, design N maxTaps x.regs.nTaps.toNat (N.div (N.div x.regs.bw f64Two) prate) = .ok taps ∧
          configured N pcf prate (N.sub x.regs.cf pcf) (N.div prate x.regs.outRate)
            (N.div (N.div x.regs.bw f64Two) prate) taps x = y := by
  simp only [configure]
  split_ifs with h1 h2
  · simp [h1]
  · simp [h2]
  · simp only [Bool.not_eq_false] at h1 h2
    cases design N maxTaps x.regs.nTaps.toNat (N.div (N.div x.regs.bw f64Two) prate) <;> simp [h1, h2]

/-! ## The phase -/

theorem zero_inPhaseRange : inPhaseRange 0 = true := by decide

theorem openPhase_inPhaseRange (p : F64) : inPhaseRange (openPhase p) = true := by
  unfold openPhase; split
  · assumption
  · exact zero_inPhaseRange

/-- What the wrap gives: the loops' result if that is a NaN or in range, an open phase in range otherwise. -/
theorem wrapPhase_cases (N : Numerics) (p : F64) :
    wrapPhase N p = wrapUp N 2 (wrapDown N 2 p) ∧
        (f64IsNaN (wrapPhase N p) = true ∨ inPhaseRange (wrapPhase N p) = true) ∨
      wrapPhase N p = openPhase p ∧
        f64IsNaN (wrapUp N 2 (wrapDown N 2 p)) = false ∧ inPhaseRange (wrapPhase N p) = true := by
  simp only [wrapPhase]
  split_ifs with h
  · left; exact ⟨rfl, by simpa [Bool.or_eq_true] using h⟩
  · right
    simp only [Bool.or_eq_true, not_or, Bool.not_eq_true] at h
    exact ⟨rfl, h.1, openPhase_inPhaseRange _⟩

/-- A phase in range is left alone. -/
theorem wrapPhase_of_inPhaseRange (N : Numerics) {p : F64} (h : inPhaseRange p = true) : wrapPhase N p = p := by
  have h' := h
  simp only [inPhaseRange, Bool.and_eq_true] at h'
  have h1 : f64Lt f64Pi p = false := by
    have := h'.2
    simp only [f64Lt, f64Le, Bool.and_eq_true, Bool.and_eq_false_iff, decide_eq_true_eq, decide_eq_false_iff_not] at *
    omega
  have h2 : f64Le p (f64Flip f64Pi) = false := by
    have := h'.1
    simp only [f64Lt, f64Le, Bool.and_eq_true, Bool.and_eq_false_iff, decide_eq_true_eq, decide_eq_false_iff_not] at *
    omega
  have h3 : wrapUp N 2 (wrapDown N 2 p) = p := by simp [wrapUp, wrapDown, h1, h2]
  simp [wrapPhase, h3, h]

/-! ## The guard and the ring -/

/-- A push either drops the sample or stores it at WPTR mod AUDIO_DEPTH (R239). -/
theorem ringPush_cases (depth k : Nat) (v : F32) (c : Pipe) :
    (c.slot.regs.fill = BitVec.ofNat 32 depth ∧
        ringPush depth k v c =
          { c with
            slot := { c.slot with regs := { c.slot.regs with audDrop := satInc c.slot.regs.audDrop } }
            ip := ipSet .audOvf c.ip }) ∨
      (c.slot.regs.fill ≠ BitVec.ofNat 32 depth ∧
        ringPush depth k v c =
          { c with
            slot := { c.slot with regs := { c.slot.regs with audWptr := c.slot.regs.audWptr + 1 } }
            mem := memWrite32 c.mem (audAddr depth k c.slot.regs) v
            ip := ipSet .audio c.ip }) := by
  simp only [ringPush]
  split_ifs with h
  · exact .inl ⟨h, rfl⟩
  · exact .inr ⟨h, rfl⟩

/-- The slot and IP before the push of a guarded sample (R238). -/
def guarded (v : F32) (c : Pipe) : Pipe :=
  if f32IsFinite v then c
  else
    { c with
      slot := { c.slot with regs := { c.slot.regs with numFault := satInc c.slot.regs.numFault } }
      ip := ipSet .numFault c.ip }

theorem emit_eq (N : Numerics) (depth k : Nat) (y : F64) (c : Pipe) :
    emit N depth k y c =
      ringPush depth k (if f32IsFinite (N.toF32 y) then N.toF32 y else 0) (guarded (N.toF32 y) c) := by
  simp only [emit, guarded]
  split <;> rfl

/-! ## Pairs and frames -/

theorem iqLoop_zero (N : Numerics) (depth k : Nat) (c : Pipe) : iqLoop N depth k 0 c = c := rfl

theorem iqLoop_succ (N : Numerics) (depth k n : Nat) (c : Pipe) :
    iqLoop N depth k (n + 1) c = iqPair N depth k (iqLoop N depth k n c) n := by
  simp [iqLoop, List.range_succ, List.foldl_append]

/-- What holds before the pairs and is kept by each holds after them. -/
theorem iqLoop_induct {N : Numerics} {depth k n : Nat} {c : Pipe} (P : Pipe → Prop) (h0 : P c)
    (hs : ∀ d j, P d → P (iqPair N depth k d j)) : P (iqLoop N depth k n c) := by
  induction n with
  | zero => exact h0
  | succ n ih => rw [iqLoop_succ]; exact hs _ _ ih

/-- The slot with the frame counted (R199 step 2). -/
def counted (x : RxSlot) : RxSlot := { x with regs := { x.regs with frames := x.regs.frames + 1 } }

/-- The four ways a slot can take a frame (R199). -/
theorem processIQ_cases (N : Numerics) (p : Params) (fr : FrameRegs) (k : Nat) (x : RxSlot) (m : Memory)
    (ip : BitVec 10) :
    (x.regs.st = .stopped ∧ processIQ N p fr k x m ip = ⟨x, m, ip, 0⟩) ∨
      (x.regs.st ≠ .stopped ∧
        ((∃ e, (counted x).regs.drifted fr = true ∧ configure N p.maxTaps fr.cf fr.rate (counted x) = .error e ∧
            processIQ N p fr k x m ip = ⟨implicitFail (counted x), m, ipSet .cfgFault ip, 0⟩) ∨
          (∃ z, (counted x).regs.drifted fr = true ∧ configure N p.maxTaps fr.cf fr.rate (counted x) = .ok z ∧
            processIQ N p fr k x m ip = iqLoop N p.audioDepth k fr.nPairs.toNat ⟨z, m, ip, 0⟩) ∨
          ((counted x).regs.drifted fr = false ∧
            processIQ N p fr k x m ip = iqLoop N p.audioDepth k fr.nPairs.toNat ⟨counted x, m, ip, 0⟩))) := by
  unfold processIQ
  simp only [show ({ x with regs := { x.regs with frames := x.regs.frames + 1 } } : RxSlot) = counted x from rfl]
  split_ifs with h1 h2
  · exact .inl ⟨h1, rfl⟩
  · refine .inr ⟨h1, ?_⟩
    cases h3 : configure N p.maxTaps fr.cf fr.rate (counted x) with
    | error e => exact .inl ⟨e, h2, rfl, rfl⟩
    | ok z => exact .inr (.inl ⟨z, h2, rfl, rfl⟩)
  · exact .inr ⟨h1, .inr (.inr ⟨Bool.eq_false_of_not_eq_true h2, rfl⟩)⟩

/-! ## The fan-out -/

/-- A slot's RX_LAST_NOUT after a frame (R257 step 5). -/
def afterFrame (c : Pipe) : RxSlot :=
  { c.slot with regs := { c.slot.regs with lastNout := BitVec.ofNat 32 c.nout } }

theorem fanOut_nil (N : Numerics) (p : Params) (fr : FrameRegs) (k : Nat) (m : Memory) (ip : BitVec 10) :
    fanOut N p fr k [] m ip = ([], m, ip) := rfl

theorem fanOut_cons_empty {N : Numerics} {p : Params} {fr : FrameRegs} {k : Nat} {x : RxSlot} {xs : List RxSlot}
    {m : Memory} {ip : BitVec 10} (h : x.regs.st = .empty) :
    fanOut N p fr k (x :: xs) m ip =
      (x :: (fanOut N p fr (k + 1) xs m ip).1, (fanOut N p fr (k + 1) xs m ip).2) := by
  rw [fanOut, if_pos h]

theorem fanOut_cons_live {N : Numerics} {p : Params} {fr : FrameRegs} {k : Nat} {x : RxSlot} {xs : List RxSlot}
    {m : Memory} {ip : BitVec 10} (h : x.regs.st ≠ .empty) :
    fanOut N p fr k (x :: xs) m ip =
      (afterFrame (processIQ N p fr k x m ip) ::
          (fanOut N p fr (k + 1) xs (processIQ N p fr k x m ip).mem (processIQ N p fr k x m ip).ip).1,
        (fanOut N p fr (k + 1) xs (processIQ N p fr k x m ip).mem (processIQ N p fr k x m ip).ip).2) := by
  rw [fanOut, if_neg h]; rfl

theorem fanOut_length (N : Numerics) (p : Params) (fr : FrameRegs) (xs : List RxSlot) (k : Nat) (m : Memory)
    (ip : BitVec 10) : (fanOut N p fr k xs m ip).1.length = xs.length := by
  induction xs generalizing k m ip with
  | nil => rfl
  | cons x xs ih =>
    by_cases h : x.regs.st = .empty
    · rw [fanOut_cons_empty h]; simp [ih]
    · rw [fanOut_cons_live h]; simp [ih]

/-! ## The throttle -/

/-- The machine after the throttle counter's update, before a spectrum (R142). -/
def throttled (s : State) : State := { s with thrCnt := if s.throttleDue then 0 else s.thrCnt + 1 }

theorem throttleAndSpectrum_cases (N : Numerics) (s : State) :
    (s.specDue = true ∧ throttleAndSpectrum N s = spectrum N (throttled s)) ∨
      (s.specDue = false ∧ throttleAndSpectrum N s = throttled s) := by
  simp only [throttleAndSpectrum,
    show ({ s with thrCnt := if s.throttleDue then 0 else s.thrCnt + 1 } : State) = throttled s from rfl]
  cases h : s.specDue
  · exact .inr ⟨rfl, by simp⟩
  · exact .inl ⟨rfl, by simp⟩

theorem specWords_length (N : Numerics) (draw : Nat) (db : List F64) : (specWords N draw db).length = db.length := by
  simp [specWords]

theorem spectrumDb_length (N : Numerics) (b : Nat) (m : Memory) : (spectrumDb N b m).length = 2 ^ b := by
  simp [spectrumDb]

end Sys2Proof.Machine
end

