-- ==== Sys2Proof/Laws/Frames.lean ====
section
/-! SUPPORT. What a frame's processing leaves alone: the registers of a slot, IP and memory across the ring, a pair, the
pairs of a frame, the fan-out, and a whole PUSH_FRAME. -/

namespace Sys2Proof.Machine

/-! ## IP bits -/

theorem getLsbD_ipSet (e : Event) (ip : BitVec 10) (b : Nat) :
    (ipSet e ip).getLsbD b = (ip.getLsbD b || decide (b = e.bit)) := by
  have h : (1#10 <<< e.bit).getLsbD b = decide (b = e.bit) := by
    by_cases hb : b < 10
    · cases e <;> interval_cases b <;> rfl
    · rw [BitVec.getLsbD_of_ge _ _ (by omega)]
      have : b ≠ e.bit := by cases e <;> simp only [Event.bit] <;> omega
      simp [this]
  simp only [ipSet, BitVec.getLsbD_or, h]

theorem getLsbD_ipSetIf (c : Bool) (e : Event) (ip : BitVec 10) (b : Nat) :
    (ipSetIf c e ip).getLsbD b = (ip.getLsbD b || (c && decide (b = e.bit))) := by
  cases c <;> simp [ipSetIf, getLsbD_ipSet]

/-! ## The configuration of a receiver -/

/-- What no frame and no configure changes of a receiver: what ADD_RX gave it, and the host's read pointer. -/
def RxRegs.sameReceiver (a b : RxRegs) : Prop :=
  b.cf = a.cf ∧ b.bw = a.bw ∧ b.outRate = a.outRate ∧ b.nTaps = a.nTaps ∧ b.mode = a.mode ∧ b.id = a.id ∧
    b.hasTag = a.hasTag ∧ b.hasLabel = a.hasLabel ∧ b.tag = a.tag ∧ b.label = a.label ∧ b.audRptr = a.audRptr

theorem RxRegs.sameReceiver_refl (a : RxRegs) : a.sameReceiver a := ⟨rfl, rfl, rfl, rfl, rfl, rfl, rfl, rfl, rfl, rfl, rfl⟩

theorem RxRegs.sameReceiver_trans {a b c : RxRegs} (h : a.sameReceiver b) (h' : b.sameReceiver c) :
    a.sameReceiver c := by
  simp only [RxRegs.sameReceiver] at *
  grind

/-! ## Emission -/

/-- What the emission of a sample by slot `k` may do to what the pipeline works on. -/
structure Emits (depth k : Nat) (c t : Pipe) : Prop where
  hidden : t.slot.hidden = c.slot.hidden
  regs : t.slot.regs =
    { c.slot.regs with
      numFault := t.slot.regs.numFault, audWptr := t.slot.regs.audWptr, audDrop := t.slot.regs.audDrop }
  nout : t.nout = c.nout
  stored : t.slot.regs.audWptr = c.slot.regs.audWptr + 1 ∧
      (∀ a, a < audAddr depth k c.slot.regs ∨ audAddr depth k c.slot.regs + 4 ≤ a → memRead8 t.mem a = memRead8 c.mem a) ∨
    t.slot.regs.audWptr = c.slot.regs.audWptr ∧ t.mem = c.mem
  ipKept : ∀ b, c.ip.getLsbD b = true → t.ip.getLsbD b = true
  ipOther : ∀ b, b ∉ [2, 3, 4] → t.ip.getLsbD b = c.ip.getLsbD b
  wf : c.mem.wf → t.mem.wf

theorem emits_ringPush (depth k : Nat) (v : F32) (c : Pipe) : Emits depth k c (ringPush depth k v c) := by
  rcases ringPush_cases depth k v c with ⟨-, h⟩ | ⟨-, h⟩
  · rw [h]
    refine ⟨rfl, rfl, rfl, .inr ⟨rfl, rfl⟩, fun b hb => ?_, fun b hb => ?_, id⟩
    · simp [getLsbD_ipSet, hb]
    · have : b ≠ 3 := fun e => hb (by simp [e])
      simp [getLsbD_ipSet, Event.bit, this]
  · rw [h]
    refine ⟨rfl, rfl, rfl, .inl ⟨rfl, fun a ha => memRead8_memWrite32_of_outside _ _ _ _ ha⟩, fun b hb => ?_,
      fun b hb => ?_, memWrite32_wf _ _ _⟩
    · simp [getLsbD_ipSet, hb]
    · have : b ≠ 2 := fun e => hb (by simp [e])
      simp [getLsbD_ipSet, Event.bit, this]

theorem emits_emit (N : Numerics) (depth k : Nat) (y : F64) (c : Pipe) : Emits depth k c (emit N depth k y c) := by
  rw [emit_eq]
  have hE := emits_ringPush depth k (if f32IsFinite (N.toF32 y) then N.toF32 y else 0) (guarded (N.toF32 y) c)
  by_cases hf : f32IsFinite (N.toF32 y) = true
  · have hg : guarded (N.toF32 y) c = c := if_pos hf
    rw [hg] at hE ⊢
    obtain ⟨h1, h2, h3, h4, h5, h6, h7⟩ := hE
    exact ⟨h1, h2, h3, h4, h5, h6, h7⟩
  · have hg : guarded (N.toF32 y) c = { c with
        slot := { c.slot with regs := { c.slot.regs with numFault := satInc c.slot.regs.numFault } }
        ip := ipSet .numFault c.ip } := if_neg hf
    rw [hg] at hE ⊢
    obtain ⟨h1, h2, h3, h4, h5, h6, h7⟩ := hE
    refine ⟨h1, h2, h3, h4, fun b hb => h5 b ?_, fun b hb => (h6 b hb).trans ?_, h7⟩
    · simp [getLsbD_ipSet, hb]
    · have : b ≠ 4 := fun e => hb (by simp [e])
      simp [getLsbD_ipSet, Event.bit, this]

/-! ## One pair -/

theorem iqPair_not_due {N : Numerics} {depth k j : Nat} {c : Pipe} (h : c.slot.regs.outputDue = false) :
    iqPair N depth k c j = { c with slot := advance N (frameI c.mem j) (frameQ c.mem j) c.slot } := by
  simp [iqPair, h]

/-- What the pipeline works on when an output is emitted: the advanced slot with the new history. -/
def readyPipe (N : Numerics) (j : Nat) (c : Pipe) : Pipe :=
  let x := advance N (frameI c.mem j) (frameQ c.mem j) c.slot
  { c with
    slot := { x with
      hidden := { x.hidden with
        iPrev := firI N x.regs.nTaps.toNat x.hidden
        qPrev := firQ N x.regs.nTaps.toNat x.hidden } } }

/-- The sample a due output emits (R230). -/
def dueSample (N : Numerics) (j : Nat) (c : Pipe) : F64 :=
  let x := advance N (frameI c.mem j) (frameQ c.mem j) c.slot
  demod N x.regs.mode (firI N x.regs.nTaps.toNat x.hidden) (firQ N x.regs.nTaps.toNat x.hidden) x.hidden.iPrev
    x.hidden.qPrev

theorem iqPair_due {N : Numerics} {depth k j : Nat} {c : Pipe} (h : c.slot.regs.outputDue = true) :
    iqPair N depth k c j =
      { emit N depth k (dueSample N j c) (readyPipe N j c) with nout := c.nout + 1 } := by
  simp only [iqPair, h, if_true]; rfl

/-- What one pair of slot `k` may do. -/
structure Pairs (depth k : Nat) (c t : Pipe) : Prop where
  same : c.slot.regs.sameReceiver t.slot.regs
  st : t.slot.regs.st = c.slot.regs.st
  cfgErr : t.slot.regs.cfgErr = c.slot.regs.cfgErr
  frames : t.slot.regs.frames = c.slot.regs.frames
  config : t.slot.regs.decim = c.slot.regs.decim ∧ t.slot.regs.prate = c.slot.regs.prate ∧
    t.slot.regs.pcf = c.slot.regs.pcf ∧ t.slot.regs.pinc = c.slot.regs.pinc ∧
    t.slot.regs.offset = c.slot.regs.offset ∧ t.slot.regs.cutoff = c.slot.regs.cutoff ∧ t.slot.hidden.taps = c.slot.hidden.taps
  ipKept : ∀ b, c.ip.getLsbD b = true → t.ip.getLsbD b = true
  ipOther : ∀ b, b ∉ [2, 3, 4] → t.ip.getLsbD b = c.ip.getLsbD b
  wf : c.mem.wf → t.mem.wf

theorem Pairs.refl (depth k : Nat) (c : Pipe) : Pairs depth k c c :=
  ⟨RxRegs.sameReceiver_refl _, rfl, rfl, rfl, ⟨rfl, rfl, rfl, rfl, rfl, rfl, rfl⟩, fun _ h => h, fun _ _ => rfl, id⟩

theorem Pairs.trans {depth k : Nat} {c d t : Pipe} (h : Pairs depth k c d) (h' : Pairs depth k d t) :
    Pairs depth k c t := by
  obtain ⟨a1, a2, a3, a4, ⟨b1, b2, b3, b4, b5, b6, b7⟩, a6, a7, a8⟩ := h
  obtain ⟨c1, c2, c3, c4, ⟨d1, d2, d3, d4, d5, d6, d7⟩, c6, c7, c8⟩ := h'
  exact ⟨RxRegs.sameReceiver_trans a1 c1, c2.trans a2, c3.trans a3, c4.trans a4,
    ⟨d1.trans b1, d2.trans b2, d3.trans b3, d4.trans b4, d5.trans b5, d6.trans b6, d7.trans b7⟩,
    fun b hb => c6 b (a6 b hb), fun b hb => (c7 b hb).trans (a7 b hb), fun hw => c8 (a8 hw)⟩

theorem pairs_iqPair (N : Numerics) (depth k j : Nat) (c : Pipe) : Pairs depth k c (iqPair N depth k c j) := by
  cases h : c.slot.regs.outputDue with
  | false =>
    rw [iqPair_not_due h]
    exact ⟨RxRegs.sameReceiver_refl _, rfl, rfl, rfl, ⟨rfl, rfl, rfl, rfl, rfl, rfl, rfl⟩, fun _ h => h, fun _ _ => rfl,
      id⟩
  | true =>
    rw [iqPair_due h]
    obtain ⟨h1, h2, -, -, h5, h6, h7⟩ := emits_emit N depth k (dueSample N j c) (readyPipe N j c)
    exact ⟨⟨(congrArg RxRegs.cf h2 :), (congrArg RxRegs.bw h2 :), (congrArg RxRegs.outRate h2 :), (congrArg RxRegs.nTaps h2 :),
        (congrArg RxRegs.mode h2 :), (congrArg RxRegs.id h2 :), (congrArg RxRegs.hasTag h2 :), (congrArg RxRegs.hasLabel h2 :),
        (congrArg RxRegs.tag h2 :), (congrArg RxRegs.label h2 :), (congrArg RxRegs.audRptr h2 :)⟩, (congrArg RxRegs.st h2 :),
      (congrArg RxRegs.cfgErr h2 :), (congrArg RxRegs.frames h2 :),
      ⟨(congrArg RxRegs.decim h2 :), (congrArg RxRegs.prate h2 :), (congrArg RxRegs.pcf h2 :), (congrArg RxRegs.pinc h2 :),
        (congrArg RxRegs.offset h2 :), (congrArg RxRegs.cutoff h2 :), (congrArg RxHidden.taps h1 :)⟩, h5, h6, h7⟩

theorem pairs_iqLoop (N : Numerics) (depth k n : Nat) (c : Pipe) : Pairs depth k c (iqLoop N depth k n c) :=
  iqLoop_induct (Pairs depth k c) (Pairs.refl _ _ _) fun d j h => h.trans (pairs_iqPair N depth k j d)

/-! ## Where samples are stored -/

/-- The bytes slot `k` may have stored to when its write pointer went from `w` to `w'`. -/
def outsideStores (depth k : Nat) (w w' : Word) (a : Nat) : Prop :=
  ∀ n : Word, (n - w).toNat < (w' - w).toNat →
    a < audBase k + 4 * (n.toNat % depth) ∨ audBase k + 4 * (n.toNat % depth) + 4 ≤ a

/-- Every byte of AUD[k] lies at or above the window's base. -/
theorem audBase_le_audAddr (depth k : Nat) (r : RxRegs) : audBase k ≤ audAddr depth k r := Nat.le_add_right _ _

/-- No pair of any slot touches a byte below the AUD_MEM windows (R90, R239). -/
theorem memRead8_iqLoop_below (N : Numerics) (depth k n : Nat) (c : Pipe) (a : Nat) (ha : a < audBase 0) :
    memRead8 (iqLoop N depth k n c).mem a = memRead8 c.mem a := by
  refine iqLoop_induct (fun d => memRead8 d.mem a = memRead8 c.mem a) rfl fun d j h => ?_
  rw [← h]
  cases hd : d.slot.regs.outputDue with
  | false => rw [iqPair_not_due hd]
  | true =>
    rw [iqPair_due hd]
    rcases (emits_emit N depth k (dueSample N j d) (readyPipe N j d)).stored with ⟨-, h1⟩ | ⟨-, h1⟩
    · refine h1 a (.inl (lt_of_lt_of_le ha (le_trans ?_ (audBase_le_audAddr depth k _))))
      simp only [audBase]; omega
    · show memRead8 (emit N depth k (dueSample N j d) (readyPipe N j d)).mem a = _
      rw [h1]; rfl

/-! ## One frame of a slot, and the fan-out -/

/-- A configure keeps the receiver and its counters. -/
theorem configured_sameReceiver {N : Numerics} {maxTaps : Nat} {pcf prate : F64} {x y : RxSlot}
    (h : configure N maxTaps pcf prate x = .ok y) :
    x.regs.sameReceiver y.regs ∧ y.regs.st = .configured ∧ y.regs.cfgErr = false ∧ y.regs.frames = x.regs.frames ∧
      y.regs.audWptr = x.regs.audWptr := by
  obtain ⟨-, -, taps, -, rfl⟩ := configure_ok_iff.1 h
  exact ⟨⟨rfl, rfl, rfl, rfl, rfl, rfl, rfl, rfl, rfl, rfl, rfl⟩, rfl, rfl, rfl, rfl⟩

/-- What processIQ may do to the memories and IP, whatever the slot. -/
theorem processIQ_frame (N : Numerics) (p : Params) (fr : FrameRegs) (k : Nat) (x : RxSlot) (m : Memory)
    (ip : BitVec 10) :
    (∀ a, a < audBase 0 → memRead8 (processIQ N p fr k x m ip).mem a = memRead8 m a) ∧
      (∀ b, ip.getLsbD b = true → (processIQ N p fr k x m ip).ip.getLsbD b = true) ∧
      (∀ b, b ∉ [2, 3, 4, 5] → (processIQ N p fr k x m ip).ip.getLsbD b = ip.getLsbD b) ∧
      (m.wf → (processIQ N p fr k x m ip).mem.wf) := by
  have loop : ∀ z : RxSlot, (∀ a, a < audBase 0 → memRead8 (iqLoop N p.audioDepth k fr.nPairs.toNat ⟨z, m, ip, 0⟩).mem a =
        memRead8 m a) ∧
      (∀ b, ip.getLsbD b = true → (iqLoop N p.audioDepth k fr.nPairs.toNat ⟨z, m, ip, 0⟩).ip.getLsbD b = true) ∧
      (∀ b, b ∉ [2, 3, 4, 5] →
        (iqLoop N p.audioDepth k fr.nPairs.toNat ⟨z, m, ip, 0⟩).ip.getLsbD b = ip.getLsbD b) ∧
      (m.wf → (iqLoop N p.audioDepth k fr.nPairs.toNat ⟨z, m, ip, 0⟩).mem.wf) := by
    intro z
    have hp := pairs_iqLoop N p.audioDepth k fr.nPairs.toNat ⟨z, m, ip, 0⟩
    exact ⟨fun a ha => memRead8_iqLoop_below N _ _ _ _ a ha, hp.ipKept, fun b hb => hp.ipOther b (by simp_all), hp.wf⟩
  rcases processIQ_cases N p fr k x m ip with ⟨-, h⟩ | ⟨-, ⟨e, -, -, h⟩ | ⟨z, -, -, h⟩ | ⟨-, h⟩⟩
  · rw [h]; exact ⟨fun _ _ => rfl, fun _ h => h, fun _ _ => rfl, id⟩
  · rw [h]
    refine ⟨fun _ _ => rfl, fun b hb => by simp [getLsbD_ipSet, hb], fun b hb => ?_, id⟩
    have : b ≠ 5 := fun e => hb (by simp [e])
    simp [getLsbD_ipSet, Event.bit, this]
  · rw [h]; exact loop z
  · rw [h]; exact loop _

/-- What the fan-out may do to the memories and IP. -/
theorem fanOut_frame (N : Numerics) (p : Params) (fr : FrameRegs) (xs : List RxSlot) (k : Nat) (m : Memory)
    (ip : BitVec 10) :
    (∀ a, a < audBase 0 → memRead8 (fanOut N p fr k xs m ip).2.1 a = memRead8 m a) ∧
      (∀ b, ip.getLsbD b = true → (fanOut N p fr k xs m ip).2.2.getLsbD b = true) ∧
      (∀ b, b ∉ [2, 3, 4, 5] → (fanOut N p fr k xs m ip).2.2.getLsbD b = ip.getLsbD b) ∧
      (m.wf → (fanOut N p fr k xs m ip).2.1.wf) := by
  induction xs generalizing k m ip with
  | nil => exact ⟨fun _ _ => rfl, fun _ h => h, fun _ _ => rfl, id⟩
  | cons x xs ih =>
    by_cases h : x.regs.st = .empty
    · rw [fanOut_cons_empty h]; exact ih _ _ _
    · rw [fanOut_cons_live h]
      obtain ⟨a1, a2, a3, a4⟩ := processIQ_frame N p fr k x m ip
      obtain ⟨b1, b2, b3, b4⟩ := ih (k + 1) (processIQ N p fr k x m ip).mem (processIQ N p fr k x m ip).ip
      exact ⟨fun a ha => (b1 a ha).trans (a1 a ha), fun b hb => b2 b (a2 b hb), fun b hb => (b3 b hb).trans (a3 b hb),
        fun hw => b4 (a4 hw)⟩

/-- A property of slots that every frame keeps holds of every slot after the fan-out. -/
theorem fanOut_forall {N : Numerics} {p : Params} {fr : FrameRegs} (P Q : RxSlot → Prop)
    (he : ∀ x, P x → x.regs.st = .empty → Q x)
    (hl : ∀ x k m ip, P x → x.regs.st ≠ .empty → Q (afterFrame (processIQ N p fr k x m ip)))
    (xs : List RxSlot) (k : Nat) (m : Memory) (ip : BitVec 10) (h : ∀ x ∈ xs, P x) :
    ∀ y ∈ (fanOut N p fr k xs m ip).1, Q y := by
  induction xs generalizing k m ip with
  | nil => simp [fanOut_nil]
  | cons x xs ih =>
    simp only [List.mem_cons, forall_eq_or_imp] at h
    by_cases hx : x.regs.st = .empty
    · rw [fanOut_cons_empty hx]; simp only [List.mem_cons, forall_eq_or_imp]
      exact ⟨he x h.1 hx, ih _ _ _ h.2⟩
    · rw [fanOut_cons_live hx]; simp only [List.mem_cons, forall_eq_or_imp]
      exact ⟨hl x _ _ _ h.1 hx, ih _ _ _ h.2⟩

/-- The slot at each index after the fan-out: an EMPTY one stays, any other takes the frame with the memories and IP the
slots before it left, which agree with the first ones below the AUD_MEM windows. -/
theorem fanOut_slot {N : Numerics} {p : Params} {fr : FrameRegs} {xs : List RxSlot} {k : Nat} {m : Memory}
    {ip : BitVec 10} {j : Nat} {x : RxSlot} (h : xs[j]? = some x) :
    (x.regs.st = .empty ∧ (fanOut N p fr k xs m ip).1[j]? = some x) ∨
      (x.regs.st ≠ .empty ∧ ∃ m' ip', (∀ a, a < audBase 0 → memRead8 m' a = memRead8 m a) ∧
        (fanOut N p fr k xs m ip).1[j]? = some (afterFrame (processIQ N p fr (k + j) x m' ip'))) := by
  induction xs generalizing k m ip j with
  | nil => simp at h
  | cons y xs ih =>
    cases j with
    | zero =>
      obtain rfl : y = x := by simpa using h
      by_cases hy : y.regs.st = .empty
      · left; rw [fanOut_cons_empty hy]; exact ⟨hy, rfl⟩
      · right; rw [fanOut_cons_live hy]; exact ⟨hy, m, ip, fun _ _ => rfl, rfl⟩
    | succ j =>
      have h' : xs[j]? = some x := by simpa using h
      by_cases hy : y.regs.st = .empty
      · rw [fanOut_cons_empty hy]
        rcases ih (k := k + 1) (m := m) (ip := ip) h' with ⟨a, b⟩ | ⟨a, m', ip', b, d⟩
        · exact .inl ⟨a, by simpa using b⟩
        · exact .inr ⟨a, m', ip', b, by simpa [Nat.add_assoc, Nat.add_comm 1] using d⟩
      · rw [fanOut_cons_live hy]
        rcases ih (k := k + 1) (m := (processIQ N p fr k y m ip).mem) (ip := (processIQ N p fr k y m ip).ip) h' with
          ⟨a, b⟩ | ⟨a, m', ip', b, d⟩
        · exact .inl ⟨a, by simpa using b⟩
        · exact .inr ⟨a, m', ip', fun c hc => (b c hc).trans ((processIQ_frame N p fr k y m ip).1 c hc),
            by simpa [Nat.add_assoc, Nat.add_comm 1] using d⟩

/-! ## A command's rule -/

/-- The rule of each command but SOFT_RESET, as `exec` runs it. -/
def commandBody : Instr → State → Except CmdError State
  | .nop => nopBody
  | .connect => fun s => connectBody s.num s
  | .disconnect => disconnectBody
  | .setFft => setFftBody
  | .softReset => fun s => .ok (s.resetRegisters.setResult 0)
  | .addRx k => fun s => addRxBody s.num k s
  | .removeRx k => removeRxBody k
  | .retuneRx k => fun s => retuneRxBody s.num k s
  | .stopRx k => stopRxBody k
  | .configureRx k => fun s => configureRxBody s.num k s
  | .readTaps k => readTapsBody k
  | .pushFrame => fun s => pushFrameBody s.num s
  | .designFir => fun s => designFirBody s.num s

theorem exec_eq_runCommand {i : Instr} (s : State) (h : i ≠ .softReset) :
    exec i s = .next (runCommand (commandBody i) s) := by
  cases i with
  | softReset => exact absurd rfl h
  | _ => exact congrArg Host.Outcome.next (runCommand_congr rfl)

end Sys2Proof.Machine
end

