-- ==== Sys2Proof/Laws/Num.lean ====
section
/-! SUPPORT. What the arithmetic of NUM64 can give: the classes of rounded results, when an operation is no NaN, and the
size of a magnitude. -/

namespace Sys2Proof.Machine

/-! ## Packed encodings -/

theorem f64Abs63_pack (neg : Bool) {m : Nat} (h : m < 2 ^ 63) : f64Abs63 (f64Pack neg m) = m := by
  simp only [f64Abs63, f64Pack, BitVec.toNat_ofNat]
  cases neg
  · simp only [Bool.false_eq_true, if_false]; omega
  · simp only [if_true]; omega

theorem f64Neg?_pack (neg : Bool) {m : Nat} (h : m < 2 ^ 63) : f64Neg? (f64Pack neg m) = neg := by
  simp only [f64Neg?, f64Pack, BitVec.toNat_ofNat]
  cases neg
  · simp only [Bool.false_eq_true, if_false, decide_eq_false_iff_not]; omega
  · simp only [if_true, decide_eq_true_eq]; omega

theorem f64InfBits_lt : f64InfBits < 2 ^ 63 := by decide

theorem roundNearest_le (p inf num den : Nat) : roundNearest p inf num den ≤ inf := Nat.min_le_right _ _

theorem f64IsNaN_pack (neg : Bool) {m : Nat} (h : m ≤ f64InfBits) : f64IsNaN (f64Pack neg m) = false := by
  rw [f64IsNaN, f64Abs63_pack neg (lt_of_le_of_lt h f64InfBits_lt)]
  exact decide_eq_false (by omega)

/-- A rounded result is never a NaN (R15). -/
theorem f64IsNaN_round (neg : Bool) (num den : Nat) : f64IsNaN (f64Round neg num den) = false :=
  f64IsNaN_pack _ (roundNearest_le _ _ _ _)

theorem f64Abs63_flip (x : F64) : f64Abs63 (f64Flip x) = f64Abs63 x := by
  simp only [f64Abs63, f64Flip, BitVec.toNat_xor, Nat.xor_mod_two_pow]
  exact Nat.xor_zero _

theorem f64IsNaN_flip (x : F64) : f64IsNaN (f64Flip x) = f64IsNaN x := by simp only [f64IsNaN, f64Abs63_flip]

/-! ## Rounding and magnitudes (R15) -/

/-- The binary exponent a rounding to `p` significand bits uses. -/
def roundExp (p num den : Nat) : Nat := Nat.log2 (num / den) + 1 - p

/-- The significand a rounding to `p` bits gives, `2 ^ p` when it carries into the next binade. -/
def roundSig (p num den : Nat) : Nat :=
  let d := den * 2 ^ roundExp p num den
  if d < 2 * (num % d) ∨ 2 * (num % d) = d ∧ num / d % 2 = 1 then num / d + 1 else num / d

theorem roundNearest_eq (p inf num den : Nat) :
    roundNearest p inf num den = min (roundExp p num den * 2 ^ (p - 1) + roundSig p num den) inf := rfl

/-- The quotient before rounding has at most `p` bits. -/
theorem quotient_lt (p num den : Nat) : num / (den * 2 ^ roundExp p num den) < 2 ^ p := by
  rw [← Nat.div_div_eq_div_mul, Nat.div_lt_iff_lt_mul (by positivity), ← pow_add]
  calc num / den < 2 ^ (Nat.log2 (num / den) + 1) := Nat.lt_log2_self
    _ ≤ 2 ^ (p + roundExp p num den) := Nat.pow_le_pow_right (by norm_num) (by unfold roundExp; omega)

/-- With a positive exponent the quotient has all of its `p` bits. -/
theorem le_quotient {p num den : Nat} (hp : 0 < p) (h : 0 < roundExp p num den) :
    2 ^ (p - 1) ≤ num / (den * 2 ^ roundExp p num den) := by
  have h0 : num / den ≠ 0 := by
    intro h0
    simp only [roundExp, h0, Nat.log2_zero] at h; omega
  rw [← Nat.div_div_eq_div_mul, Nat.le_div_iff_mul_le (by positivity), ← pow_add]
  calc 2 ^ (p - 1 + roundExp p num den) = 2 ^ Nat.log2 (num / den) := by
        congr 1; unfold roundExp at h ⊢; omega
    _ ≤ num / den := Nat.log2_self_le h0

theorem roundSig_cases (p num den : Nat) :
    roundSig p num den = num / (den * 2 ^ roundExp p num den) ∨
      roundSig p num den = num / (den * 2 ^ roundExp p num den) + 1 := by
  simp only [roundSig]; split_ifs
  · exact .inr rfl
  · exact .inl rfl

/-- A value that fits the format is not rounded. -/
theorem roundSig_of_dvd {p num den : Nat} (h : num % (den * 2 ^ roundExp p num den) = 0)
    (hd : 0 < den) : roundSig p num den = num / (den * 2 ^ roundExp p num den) := by
  have : 0 < den * 2 ^ roundExp p num den := by positivity
  simp only [roundSig, h]
  rw [if_neg (by omega)]

/-- The magnitude of an encoding `k·2^52 + q`, for a significand `q` that fills the binade, or any with `k = 0`. -/
theorem f64Mag_pack (neg : Bool) {k q : Nat} (hq : q ≤ 2 ^ 53) (hk : 0 < k → 2 ^ 52 ≤ q)
    (hlt : k * 2 ^ 52 + q < f64InfBits) : f64Mag (f64Pack neg (k * 2 ^ 52 + q)) = q * 2 ^ k := by
  unfold f64Mag
  rw [f64Abs63_pack neg (lt_trans hlt f64InfBits_lt)]
  rcases Nat.lt_or_ge q (2 ^ 52) with h | h
  · obtain rfl : k = 0 := by
      by_contra h0; have := hk (by omega); omega
    simp only [Nat.zero_mul, Nat.zero_add, Nat.div_eq_of_lt h, if_true, Nat.mod_eq_of_lt h, Nat.pow_zero, Nat.mul_one]
  · rcases Nat.lt_or_ge q (2 ^ 53) with h' | h'
    · have e1 : (k * 2 ^ 52 + q) / 2 ^ 52 = k + 1 := by omega
      have e2 : (k * 2 ^ 52 + q) % 2 ^ 52 = q - 2 ^ 52 := by omega
      simp only [e1, e2]
      rw [if_neg (by omega), Nat.add_sub_cancel, Nat.add_sub_cancel' h]
    · obtain rfl : q = 2 ^ 53 := by omega
      have e1 : (k * 2 ^ 52 + 2 ^ 53) / 2 ^ 52 = k + 2 := by omega
      have e2 : (k * 2 ^ 52 + 2 ^ 53) % 2 ^ 52 = 0 := by omega
      simp only [e1, e2]
      rw [if_neg (by omega), show k + 2 - 1 = k + 1 by omega, pow_succ 2 k]; ring

/-- A result below the overflow threshold: its encoding is not clipped, and its magnitude is the rounded one. -/
theorem f64Round_of_lt (neg : Bool) {num den : Nat} (h : num / den < 2 ^ 2097) :
    f64IsFinite (f64Round neg num den) = true ∧
      f64Mag (f64Round neg num den) = roundSig 53 num den * 2 ^ roundExp 53 num den := by
  have hk : roundExp 53 num den ≤ 2044 := by
    unfold roundExp
    rcases Nat.eq_zero_or_pos (num / den) with h0 | h0
    · rw [h0, Nat.log2_zero]; omega
    · have : Nat.log2 (num / den) < 2097 := (Nat.log2_lt (by omega)).2 h
      omega
  have hq := quotient_lt 53 num den
  have hs := roundSig_cases 53 num den
  have hlt : roundExp 53 num den * 2 ^ 52 + roundSig 53 num den < f64InfBits := by
    unfold f64InfBits; omega
  have he : f64Round neg num den = f64Pack neg (roundExp 53 num den * 2 ^ 52 + roundSig 53 num den) := by
    rw [f64Round, roundNearest_eq, Nat.min_eq_left (by simpa using hlt.le)]
  rw [he]
  refine ⟨?_, f64Mag_pack neg (by omega) (fun hp => ?_) hlt⟩
  · rw [f64IsFinite, f64Abs63_pack neg (lt_trans hlt f64InfBits_lt)]; exact decide_eq_true hlt
  · have := le_quotient (p := 53) (by norm_num) hp
    omega

/-- Rounding is monotone at the data of the format: a value of at most the finite datum `q * 2 ^ k` is rounded to a finite
datum of at most it. -/
theorem f64Round_le (neg : Bool) {num den q k : Nat} (hd : 0 < den) (hq : 2 ^ 52 ≤ q) (hq' : q < 2 ^ 53) (hk : k ≤ 2045)
    (h : num ≤ q * 2 ^ k * den) :
    f64IsFinite (f64Round neg num den) = true ∧ f64Mag (f64Round neg num den) ≤ q * 2 ^ k := by
  have hdiv : num / den ≤ q * 2 ^ k := Nat.div_le_of_le_mul (by rwa [Nat.mul_comm den])
  have hK : roundExp 53 num den ≤ k := by
    unfold roundExp
    rcases Nat.eq_zero_or_pos (num / den) with h0 | h0
    · rw [h0, Nat.log2_zero]; omega
    · have : num / den < 2 ^ (53 + k) := by
        rw [pow_add]; exact lt_of_le_of_lt hdiv (Nat.mul_lt_mul_of_pos_right hq' (by positivity))
      have := (Nat.log2_lt (by omega)).2 this
      omega
  have hs : roundSig 53 num den ≤ 2 ^ 53 := by
    have := quotient_lt 53 num den
    have := roundSig_cases 53 num den
    omega
  have hsK : roundExp 53 num den = k → roundSig 53 num den ≤ q := by
    intro hE
    have hle : num / (den * 2 ^ k) ≤ q :=
      Nat.div_le_of_le_mul (le_of_le_of_eq h (by ring))
    rcases Nat.lt_or_ge (num / (den * 2 ^ k)) q with h1 | h1
    · have := roundSig_cases 53 num den
      rw [hE] at this; omega
    · have h2 : q * (den * 2 ^ k) ≤ num := (Nat.le_div_iff_mul_le (by positivity)).1 h1
      have h3 : num = q * (den * 2 ^ k) := le_antisymm (le_of_le_of_eq h (by ring)) h2
      rw [roundSig_of_dvd (by rw [hE, h3, Nat.mul_mod_left]) hd, hE]; exact hle
  have hlt : roundExp 53 num den * 2 ^ 52 + roundSig 53 num den < f64InfBits := by
    unfold f64InfBits
    rcases Nat.lt_or_ge (roundExp 53 num den) k with h1 | h1
    · omega
    · have := hsK (by omega); omega
  have he : f64Round neg num den = f64Pack neg (roundExp 53 num den * 2 ^ 52 + roundSig 53 num den) := by
    rw [f64Round, roundNearest_eq, Nat.min_eq_left (by simpa using hlt.le)]
  rw [he, f64Mag_pack neg hs (fun hp => ?_) hlt]
  · refine ⟨?_, ?_⟩
    · rw [f64IsFinite, f64Abs63_pack neg (lt_trans hlt f64InfBits_lt)]; exact decide_eq_true hlt
    · rcases Nat.lt_or_ge (roundExp 53 num den) k with h1 | h1
      · calc roundSig 53 num den * 2 ^ roundExp 53 num den ≤ 2 ^ 53 * 2 ^ (k - 1) :=
              Nat.mul_le_mul hs (Nat.pow_le_pow_right (by norm_num) (by omega))
          _ = 2 ^ 52 * 2 ^ k := by rw [← pow_add, ← pow_add]; congr 1; omega
          _ ≤ q * 2 ^ k := Nat.mul_le_mul_right _ hq
      · rw [show roundExp 53 num den = k by omega]
        exact Nat.mul_le_mul_right _ (hsK (by omega))
  · have := le_quotient (p := 53) (by norm_num) hp
    have := roundSig_cases 53 num den
    omega

/-- A value with at most `p` bits, scaled, is encoded exactly. -/
theorem roundNearest_exact {p inf k q den : Nat} (hp : 0 < p) (hd : 0 < den) (hq : q < 2 ^ p)
    (hk : 0 < k → 2 ^ (p - 1) ≤ q) (hlt : k * 2 ^ (p - 1) + q ≤ inf) :
    roundNearest p inf (q * 2 ^ k * den) den = k * 2 ^ (p - 1) + q ∧
      roundExp p (q * 2 ^ k * den) den = k ∧ roundSig p (q * 2 ^ k * den) den = q := by
  have e0 : q * 2 ^ k * den / den = q * 2 ^ k := Nat.mul_div_cancel _ hd
  have e1 : roundExp p (q * 2 ^ k * den) den = k := by
    unfold roundExp
    rw [e0]
    rcases Nat.eq_zero_or_pos k with rfl | h0
    · rcases Nat.eq_zero_or_pos q with rfl | hq0
      · simp only [Nat.zero_mul, Nat.log2_zero]; omega
      · have : Nat.log2 (q * 2 ^ 0) < p := (Nat.log2_lt (by simpa using hq0.ne')).2 (by simpa using hq)
        omega
    · have h1 := hk h0
      have h2 : 0 < q := lt_of_lt_of_le (by positivity) h1
      have lo : p - 1 + k ≤ Nat.log2 (q * 2 ^ k) := by
        refine (Nat.le_log2 (by positivity)).2 ?_
        rw [pow_add]; exact Nat.mul_le_mul_right _ h1
      have hi : Nat.log2 (q * 2 ^ k) < p + k := by
        refine (Nat.log2_lt (by positivity)).2 ?_
        rw [pow_add]; exact Nat.mul_lt_mul_of_pos_right hq (by positivity)
      omega
  have e2 : roundSig p (q * 2 ^ k * den) den = q := by
    rw [roundSig_of_dvd (by rw [e1, show q * 2 ^ k * den = q * (den * 2 ^ k) by ring, Nat.mul_mod_left]) hd, e1,
      show q * 2 ^ k * den = q * (den * 2 ^ k) by ring, Nat.mul_div_cancel _ (by positivity)]
  refine ⟨?_, e1, e2⟩
  rw [roundNearest_eq, e1, e2, Nat.min_eq_left hlt]

/-! ## When an operation is no NaN -/

theorem f64IsInf_false_of_finite {x : F64} (h : f64IsFinite x = true) : f64IsInf x = false := by
  simp only [f64IsFinite, f64IsInf, decide_eq_true_eq, decide_eq_false_iff_not] at *; omega

theorem f64IsNaN_false_of_finite {x : F64} (h : f64IsFinite x = true) : f64IsNaN x = false := by
  simp only [f64IsFinite, f64IsNaN, decide_eq_true_eq, decide_eq_false_iff_not] at *; omega

/-- A sum with a finite first operand is no NaN (R15). -/
theorem f64IsNaN_sum (op : NumOp) {a b : F64} (ha : f64IsFinite a = true) (hb : f64IsNaN b = false) :
    f64IsNaN (f64Sum op a b) = false := by
  unfold f64Sum
  simp only [f64IsNaN_false_of_finite ha, hb, f64IsInf_false_of_finite ha, Bool.or_self, Bool.false_eq_true, if_false]
  split_ifs
  · exact hb
  · exact f64IsNaN_pack _ (Nat.zero_le _)
  · exact f64IsNaN_round _ _ _

/-- A sum with a finite second operand is no NaN (R15). -/
theorem f64IsNaN_sum' (op : NumOp) {a b : F64} (ha : f64IsNaN a = false) (hb : f64IsFinite b = true) :
    f64IsNaN (f64Sum op a b) = false := by
  unfold f64Sum
  simp only [f64IsNaN_false_of_finite hb, ha, f64IsInf_false_of_finite hb, Bool.or_self, Bool.false_and,
    Bool.false_eq_true, if_false]
  split_ifs
  · exact ha
  · exact f64IsNaN_pack _ (Nat.zero_le _)
  · exact f64IsNaN_round _ _ _

/-- A product of finite operands is no NaN (R15). -/
theorem f64IsNaN_mul {a b : F64} (ha : f64IsFinite a = true) (hb : f64IsFinite b = true) :
    f64IsNaN (f64Mul a b) = false := by
  unfold f64Mul
  simp only [f64IsNaN_false_of_finite ha, f64IsNaN_false_of_finite hb, f64IsInf_false_of_finite ha,
    f64IsInf_false_of_finite hb, Bool.or_self, Bool.false_eq_true, if_false]
  exact f64IsNaN_round _ _ _

theorem f64IsZero_false_of_pos {x : F64} (h : f64FinitePos x = true) : f64IsZero x = false := by
  simp only [f64FinitePos, f64Lt, Bool.and_eq_true, decide_eq_true_eq] at h
  rw [f64IsZero, decide_eq_false_iff_not]
  intro h0
  have := h.2.2
  simp only [f64Key, h0, show f64Abs63 0 = 0 from rfl] at this
  split_ifs at this <;> omega

/-- A quotient of no NaN by a finite positive divisor is no NaN (R15). -/
theorem f64IsNaN_div {a b : F64} (ha : f64IsNaN a = false) (hb : f64FinitePos b = true) :
    f64IsNaN (f64Div a b) = false := by
  have hf : f64IsFinite b = true := by
    simp only [f64FinitePos, Bool.and_eq_true] at hb; exact hb.1
  unfold f64Div
  simp only [ha, f64IsNaN_false_of_finite hf, f64IsInf_false_of_finite hf, f64IsZero_false_of_pos hb, Bool.or_self,
    Bool.false_eq_true, if_false]
  split_ifs
  · exact f64IsNaN_pack _ le_rfl
  · exact f64IsNaN_round _ _ _

/-- A significand of at most 53 bits, scaled, is rounded to itself. -/
theorem round_scaled {q m : Nat} (hq : q < 2 ^ 53) :
    roundSig 53 (q * 2 ^ m) 1 * 2 ^ roundExp 53 (q * 2 ^ m) 1 = q * 2 ^ m := by
  have hd : 2 ^ roundExp 53 (q * 2 ^ m) 1 ∣ q * 2 ^ m := by
    refine Dvd.dvd.mul_left (pow_dvd_pow 2 ?_) q
    unfold roundExp
    rw [Nat.div_one]
    rcases Nat.eq_zero_or_pos q with rfl | h0
    · simp
    · have : Nat.log2 (q * 2 ^ m) < 53 + m := by
        refine (Nat.log2_lt (by positivity)).2 ?_
        rw [pow_add]; exact Nat.mul_lt_mul_of_pos_right hq (by positivity)
      omega
  rw [roundSig_of_dvd _ (by norm_num), Nat.one_mul]
  · exact Nat.div_mul_cancel hd
  · rw [Nat.one_mul]; exact Nat.mod_eq_zero_of_dvd hd

/-! ## Finite results of bounded operands, and zeros (R15) -/

theorem f64IsFinite_zero {x : F64} (h : f64IsZero x = true) : f64IsFinite x = true := by
  simp only [f64IsZero, f64IsFinite, decide_eq_true_eq] at *
  rw [h]; decide

theorem f64Mag_zero {x : F64} (h : f64IsZero x = true) : f64Mag x = 0 := by
  simp only [f64IsZero, decide_eq_true_eq] at h
  simp [f64Mag, h]

theorem f64IsZero_pack (neg : Bool) : f64IsZero (f64Pack neg 0) = true := by cases neg <;> decide

theorem f64IsZero_round (neg : Bool) (den : Nat) : f64IsZero (f64Round neg 0 den) = true := by
  have : roundNearest 53 f64InfBits 0 den = 0 := by simp [roundNearest]
  rw [f64Round, this]; exact f64IsZero_pack _

theorem natAbs_f64Int (x : F64) : (f64Int x).natAbs = f64Mag x := by unfold f64Int; split_ifs <;> simp

/-- A sum of finite operands whose magnitudes add up to at most a finite datum is finite, and at most it. -/
theorem f64Sum_le (op : NumOp) {a b : F64} {q k : Nat} (ha : f64IsFinite a = true) (hb : f64IsFinite b = true)
    (hq : 2 ^ 52 ≤ q) (hq' : q < 2 ^ 53) (hk : k ≤ 2045) (h : f64Mag a + f64Mag b ≤ q * 2 ^ k) :
    f64IsFinite (f64Sum op a b) = true ∧ f64Mag (f64Sum op a b) ≤ q * 2 ^ k := by
  have ht : (f64Int a + f64Int b).natAbs ≤ f64Mag a + f64Mag b := by
    rw [← natAbs_f64Int, ← natAbs_f64Int]; exact Int.natAbs_add_le _ _
  unfold f64Sum
  simp only [f64IsNaN_false_of_finite ha, f64IsNaN_false_of_finite hb, f64IsInf_false_of_finite ha,
    f64IsInf_false_of_finite hb, Bool.or_self, Bool.false_eq_true, if_false]
  split_ifs with h0
  · have hz := f64IsZero_pack (f64Neg? a && f64Neg? b)
    exact ⟨f64IsFinite_zero hz, by rw [f64Mag_zero hz]; exact Nat.zero_le _⟩
  · exact f64Round_le _ Nat.one_pos hq hq' hk (by rw [Nat.mul_one]; exact ht.trans h)

theorem f64IsZero_sum (op : NumOp) {a b : F64} (ha : f64IsZero a = true) (hb : f64IsZero b = true) :
    f64IsZero (f64Sum op a b) = true := by
  have fa := f64IsFinite_zero ha
  have fb := f64IsFinite_zero hb
  unfold f64Sum
  simp only [f64IsNaN_false_of_finite fa, f64IsNaN_false_of_finite fb, f64IsInf_false_of_finite fa,
    f64IsInf_false_of_finite fb, Bool.or_self, Bool.false_eq_true, if_false]
  have : f64Int a + f64Int b = 0 := by
    have h1 : f64Int a = 0 := Int.natAbs_eq_zero.1 (by rw [natAbs_f64Int, f64Mag_zero ha])
    have h2 : f64Int b = 0 := Int.natAbs_eq_zero.1 (by rw [natAbs_f64Int, f64Mag_zero hb])
    omega
  rw [if_pos this]; exact f64IsZero_pack _

theorem f64IsZero_flip (x : F64) : f64IsZero (f64Flip x) = f64IsZero x := by simp only [f64IsZero, f64Abs63_flip]

theorem f64IsFinite_flip (x : F64) : f64IsFinite (f64Flip x) = f64IsFinite x := by
  simp only [f64IsFinite, f64Abs63_flip]

theorem f64Mag_flip (x : F64) : f64Mag (f64Flip x) = f64Mag x := by simp only [f64Mag, f64Abs63_flip]

/-- A product of finite operands whose exact value is at most a finite datum is finite, and at most it. -/
theorem f64Mul_le {a b : F64} {q k : Nat} (ha : f64IsFinite a = true) (hb : f64IsFinite b = true)
    (hq : 2 ^ 52 ≤ q) (hq' : q < 2 ^ 53) (hk : k ≤ 2045) (h : f64Mag a * f64Mag b ≤ q * 2 ^ k * 2 ^ 1074) :
    f64IsFinite (f64Mul a b) = true ∧ f64Mag (f64Mul a b) ≤ q * 2 ^ k := by
  unfold f64Mul
  simp only [f64IsNaN_false_of_finite ha, f64IsNaN_false_of_finite hb, f64IsInf_false_of_finite ha,
    f64IsInf_false_of_finite hb, Bool.or_self, Bool.false_eq_true, if_false]
  exact f64Round_le _ (by positivity) hq hq' hk h

/-- A finite datum is below 2^2098 units. -/
theorem f64Mag_lt {x : F64} (h : f64IsFinite x = true) : f64Mag x < 2 ^ 2098 := by
  simp only [f64IsFinite, decide_eq_true_eq] at h
  unfold f64InfBits at h
  have hf : f64Abs63 x % 2 ^ 52 < 2 ^ 52 := Nat.mod_lt _ (by norm_num)
  unfold f64Mag
  simp only
  split_ifs
  · exact lt_of_lt_of_le hf (Nat.pow_le_pow_right (by norm_num) (by norm_num))
  · calc (2 ^ 52 + f64Abs63 x % 2 ^ 52) * 2 ^ (f64Abs63 x / 2 ^ 52 - 1) < 2 ^ 53 * 2 ^ (f64Abs63 x / 2 ^ 52 - 1) :=
          Nat.mul_lt_mul_of_pos_right (by omega) (by positivity)
      _ ≤ 2 ^ 53 * 2 ^ 2045 := Nat.mul_le_mul_left _ (Nat.pow_le_pow_right (by norm_num) (by omega))
      _ = 2 ^ 2098 := by rw [← pow_add]

theorem f64IsZero_mul {a b : F64} (ha : f64IsZero a = true) (hb : f64IsFinite b = true) :
    f64IsZero (f64Mul a b) = true := by
  have fa := f64IsFinite_zero ha
  unfold f64Mul
  simp only [f64IsNaN_false_of_finite fa, f64IsNaN_false_of_finite hb, f64IsInf_false_of_finite fa,
    f64IsInf_false_of_finite hb, Bool.or_self, Bool.false_eq_true, if_false, f64Mag_zero ha, Nat.zero_mul]
  exact f64IsZero_round _ _

/-- The square of a zero is +0.0. -/
theorem f64Mul_self_zero {a : F64} (ha : f64IsZero a = true) : f64Mul a a = 0 := by
  have : a = 0 ∨ a = f64Flip 0 := by
    simp only [f64IsZero, decide_eq_true_eq] at ha
    unfold f64Abs63 at ha
    have hl := a.isLt
    rcases Nat.lt_or_ge a.toNat (2 ^ 63) with h | h
    · left; apply BitVec.eq_of_toNat_eq; show a.toNat = 0; omega
    · right; apply BitVec.eq_of_toNat_eq; show a.toNat = 2 ^ 63; omega
  rcases this with rfl | rfl <;> decide +kernel

/-! ## The phase increment and the advance (R193, R194) -/

/-- The phase increment of a usable offset is no NaN (R193). -/
theorem f64IsNaN_phaseInc {off prate : F64} (h1 : f64IsFinite off = true) (h2 : f64FinitePos prate = true) :
    f64IsNaN (phaseInc num64 off prate) = false :=
  f64IsNaN_div (f64IsNaN_mul (by decide) h1) h2

theorem f64IsFinite_of_inPhaseRange {p : F64} (h : inPhaseRange p = true) : f64IsFinite p = true := by
  simp only [inPhaseRange, f64Lt, f64Le, Bool.and_eq_true, decide_eq_true_eq] at h
  simp only [f64Key] at h
  obtain ⟨⟨-, h1⟩, -, h2⟩ := h
  simp only [f64IsFinite, decide_eq_true_eq]
  have e1 : f64Neg? (f64Flip f64Pi) = true := by decide
  have e2 : f64Neg? f64Pi = false := by decide
  have e3 : f64Abs63 (f64Flip f64Pi) = 0x400921FB54442D18 := by decide
  have e4 : f64Abs63 f64Pi = 0x400921FB54442D18 := by decide
  have e5 : f64InfBits = 0x7FF0000000000000 := by decide
  rw [e1, e3] at h1
  rw [e2, e4] at h2
  rw [e5]
  cases hn : f64Neg? p <;> simp only [hn, if_true, if_false, Bool.false_eq_true] at h1 h2 <;> omega

theorem f64IsNaN_wrapDown {n : Nat} {p : F64} (h : f64IsNaN p = false) : f64IsNaN (wrapDown num64 n p) = false := by
  induction n generalizing p with
  | zero => exact h
  | succ n ih =>
    rw [wrapDown]
    split_ifs
    · exact ih (f64IsNaN_sum' _ h (by decide))
    · exact h

theorem f64IsNaN_wrapUp {n : Nat} {p : F64} (h : f64IsNaN p = false) : f64IsNaN (wrapUp num64 n p) = false := by
  induction n generalizing p with
  | zero => exact h
  | succ n ih =>
    rw [wrapUp]
    split_ifs
    · exact ih (f64IsNaN_sum' _ h (by decide))
    · exact h

/-- A record with NUM64's sum and difference wraps as NUM64 does (R16 P1, R194). -/
theorem wrapPhase_eq_num64 {N : Numerics} (ha : N.add = f64Add) (hs : N.sub = f64Sub) (p : F64) :
    wrapPhase N p = wrapPhase num64 p := by
  simp only [wrapPhase, wrapUp, wrapDown, ha, hs]; rfl

/-- A record with NUM64's product and quotient gives NUM64's phase increment (R16 P1, R193). -/
theorem phaseInc_eq_num64 {N : Numerics} (hm : N.mul = f64Mul) (hd : N.div = f64Div) (off prate : F64) :
    phaseInc N off prate = phaseInc num64 off prate := by
  simp only [phaseInc, hm, hd]; rfl

/-- From a phase in range, an increment that is no NaN leaves the phase in range (R56, R194). -/
theorem inPhaseRange_advance {p d : F64} (hp : inPhaseRange p = true) (hd : f64IsNaN d = false) :
    inPhaseRange (wrapPhase num64 (f64Add p d)) = true := by
  have hs : f64IsNaN (f64Add p d) = false := f64IsNaN_sum _ (f64IsFinite_of_inPhaseRange hp) hd
  rcases wrapPhase_cases num64 (f64Add p d) with ⟨h1, h2 | h2⟩ | ⟨-, -, h2⟩
  · rw [h1, f64IsNaN_wrapUp (f64IsNaN_wrapDown hs)] at h2; exact absurd h2 (by decide)
  · exact h2
  · exact h2

/-! ## The decimation factor (R191) -/

/-- Below 4294967296.0 the floor fits a 32-bit register. -/
theorem floorNat_lt {q : F64} (h : f64Lt q f64TwoPow32 = true) : floorNat q < 2 ^ 32 := by
  unfold floorNat
  split_ifs with h0
  · exact Nat.mod_lt _ (by norm_num)
  simp only [f64Lt, Bool.and_eq_true, Bool.not_eq_true', decide_eq_true_eq, not_and, not_lt, and_assoc] at h h0
  simp only [f64Key] at h h0
  cases hn : f64Neg? q with
  | true =>
    have h2 := h0 h.1 (by decide)
    rw [hn, show f64Neg? 0 = false from rfl, show f64Abs63 0 = 0 from rfl] at h2
    simp only [if_true, Bool.false_eq_true, if_false] at h2
    have h3 : f64Abs63 q = 0 := by omega
    simp only [f64Mag, h3]; norm_num
  | false =>
    rw [hn] at h
    have e1 : f64Neg? f64TwoPow32 = false := by decide
    have e2 : f64Abs63 f64TwoPow32 = 1055 * 2 ^ 52 := by decide
    have hlt : f64Abs63 q < 1055 * 2 ^ 52 := by
      have := h.2.2
      rw [e1, e2] at this
      simp only [Bool.false_eq_true, if_false] at this
      omega
    refine (Nat.div_lt_iff_lt_mul (by positivity)).2 ?_
    have he : f64Abs63 q / 2 ^ 52 < 1055 := by omega
    have hf : f64Abs63 q % 2 ^ 52 < 2 ^ 52 := Nat.mod_lt _ (by positivity)
    have big : 2 ^ 53 * 2 ^ 1053 = 2 ^ 32 * 2 ^ 1074 := 
      (pow_add 2 53 1053).symm.trans ((congrArg (fun n => 2 ^ n) (show 53 + 1053 = 32 + 1074 from rfl)).trans
        (pow_add 2 32 1074))
    unfold f64Mag
    simp only
    rw [← big]
    split_ifs
    · calc f64Abs63 q % 2 ^ 52 < 2 ^ 52 := hf
        _ ≤ 2 ^ 53 * 2 ^ 1053 := by rw [← pow_add]; exact Nat.pow_le_pow_right (by norm_num) (by norm_num)
    · have h1 : 2 ^ (f64Abs63 q / 2 ^ 52 - 1) ≤ 2 ^ 1053 := Nat.pow_le_pow_right (by norm_num) (by omega)
      have h2 : 2 ^ 52 + f64Abs63 q % 2 ^ 52 < 2 ^ 53 := by omega
      exact Nat.mul_lt_mul_of_lt_of_le h2 h1 (by positivity)

end Sys2Proof.Machine
end

