-- ==== Sys2Proof/Laws/PerInstr.lean ====
section
/-! SUPPORT. The per-instruction family EncodedFields: the three fields of every command's word (R120), one lemma per
constructor. -/

namespace Sys2Proof.Laws

/-- The encoder puts the command's opcode in OPC, its slot or 0 in SLOT, and 0 in RSV (R120, R122). -/
def EncodedFields.Statement (i : Instr) : Prop :=
  opcodeOf (opcOf (encode i)) = some i.opcode ∧ slotOf (encode i) = i.slot?.getD 0 ∧ rsvOf (encode i) = 0

/-- The fields of a concatenation laid out as R120 says. -/
theorem fields_of_word (k b : BitVec 8) :
    opcOf ((0 : BitVec 16) ++ k ++ b) = b ∧ slotOf ((0 : BitVec 16) ++ k ++ b) = k ∧
      rsvOf ((0 : BitVec 16) ++ k ++ b) = 0 := by
  refine ⟨?_, ?_, ?_⟩ <;> simp only [opcOf, slotOf, rsvOf] <;> ext i hi <;>
    simp only [BitVec.getElem_extractLsb', BitVec.getLsbD_append] <;> grind

theorem encodedFields_of_fields (i : Instr) (h : opcodeOf i.opcode.byte = some i.opcode) : EncodedFields.Statement i := by
  obtain ⟨h1, h2, h3⟩ := fields_of_word (i.slot?.getD 0) i.opcode.byte
  exact ⟨by rw [show opcOf (encode i) = i.opcode.byte from h1, h], h2, h3⟩

theorem EncodedFields.nop : EncodedFields.Statement .nop := encodedFields_of_fields _ rfl
theorem EncodedFields.connect : EncodedFields.Statement .connect := encodedFields_of_fields _ rfl
theorem EncodedFields.disconnect : EncodedFields.Statement .disconnect := encodedFields_of_fields _ rfl
theorem EncodedFields.setFft : EncodedFields.Statement .setFft := encodedFields_of_fields _ rfl
theorem EncodedFields.softReset : EncodedFields.Statement .softReset := encodedFields_of_fields _ rfl
theorem EncodedFields.addRx (slot : BitVec 8) : EncodedFields.Statement (.addRx slot) := encodedFields_of_fields _ rfl
theorem EncodedFields.removeRx (slot : BitVec 8) : EncodedFields.Statement (.removeRx slot) :=
  encodedFields_of_fields _ rfl
theorem EncodedFields.retuneRx (slot : BitVec 8) : EncodedFields.Statement (.retuneRx slot) :=
  encodedFields_of_fields _ rfl
theorem EncodedFields.stopRx (slot : BitVec 8) : EncodedFields.Statement (.stopRx slot) := encodedFields_of_fields _ rfl
theorem EncodedFields.configureRx (slot : BitVec 8) : EncodedFields.Statement (.configureRx slot) :=
  encodedFields_of_fields _ rfl
theorem EncodedFields.readTaps (slot : BitVec 8) : EncodedFields.Statement (.readTaps slot) :=
  encodedFields_of_fields _ rfl
theorem EncodedFields.pushFrame : EncodedFields.Statement .pushFrame := encodedFields_of_fields _ rfl
theorem EncodedFields.designFir : EncodedFields.Statement .designFir := encodedFields_of_fields _ rfl

end Sys2Proof.Laws
end

