-- ==== Sys2Proof/Tests/Slice0.lean ====
section
/-! SUPPORT. Tests: the well-formedness smoke test, every command's word written out from the encoding of R120 and R122, one
or two steps per command with values from 95_test_vectors.md and the rules' own examples, and for each obligation with
hypotheses a state that meets them. -/

namespace Sys2Proof.Tests

open Sys2Proof.Machine

set_option Elab.async false

/-! ## Helpers -/

/-- The defaults of R6, with 63 for DEFAULT_TAPS, which the spec leaves open. -/
def params : Params := { Params.default with defaultTaps := 63 }

def idle : State := State.powerOn params

/-- An instance of two slots. -/
def pairParams : Params := { params with numRx := 2 }

/-- The state after a command step. -/
def after (i : Instr) (s : State) : State :=
  match exec i s with
  | .next t => t
  | .fault _ => s
  | .refused _ => s

/-- The arguments of V-RX-CFG, with A_RATE = 4 for CONNECT: A_CF = 0, A_BW = 2, A_OUTRATE = 4, A_MODE = 5, A_NTAPS = 3. -/
def baseArgs : ArgRegs where
  cf := 0
  rate := 0x4010000000000000
  bw := 0x4000000000000000
  outRate := 0x4010000000000000
  cutoff := 0x3FD0000000000000
  nTaps := 3
  mode := 5
  id := 7
  tag := 8
  label := 9
  flags := 1
  log2n := 2
  throttle := 2

def ready : State := { idle with args := baseArgs }

/-- CONNECT(0, 4). -/
def conn : State := after .connect ready

/-- ADD_RX on slot 0 while disconnected: UNCONFIGURED. -/
def unconf : State := after (.addRx 0) ready

/-- The receiver of V-RX-CFG's base row as ADD_RX leaves it after CONNECT(0, 4): RX_DECIM = 1, RX_CUTOFF = 0.25, RX_PINC
= -0.0 (V-NCO-4) and the taps of V-FIR-1. -/
def confSlot : RxSlot where
  regs :=
    { RxRegs.reset with
      st := .configured
      mode := .raw
      hasTag := true
      id := 7
      tag := 8
      bw := 0x4000000000000000
      outRate := 0x4010000000000000
      prate := 0x4010000000000000
      decim := 1
      nTaps := 3
      pinc := 0x8000000000000000
      cutoff := 0x3FD0000000000000 }
  hidden :=
    { taps := [0x3F04065912C5A232, 0x3FEFFF5FCD3769D2, 0x3F04065912C5A232]
      dlI := [0, 0, 0]
      dlQ := [0, 0, 0]
      dlW := 0
      iPrev := 0
      qPrev := 0 }

/-- The machine with that receiver in slot 0. -/
def conf : State := { conn with slots := conn.slots.set 0 confSlot }

/-- STOP_RX after that. -/
def stopped : State := after (.stopRx 0) conf

def slot0 (s : State) : RxSlot := s.slots.getD 0 RxSlot.reset

/-- A frame of `n` pairs at rate 4, and its words in FRAME_MEM. -/
def withFrame (n : Word) (ws : List Word) (s : State) : State :=
  { s with
    frame := ⟨n, 0x4010000000000000, 0, 5⟩
    mem := memWriteWords s.mem frameBase ws }

/-- A frame of two pairs (3, 4), ready to be pushed on the CONFIGURED slot, with a transform of 4. -/
def framed : State := { withFrame 2 [0x40400000, 0x40800000, 0x40400000, 0x40800000] conf with fftLog2n := 2 }

/-- A frame of two pairs (0, 0) and a transform of 2: a spectrum is due. -/
def zeroFrame : State := { withFrame 2 [0, 0, 0, 0] conn with fftLog2n := 1 }

def nan : F64 := 0x7FF8000000000000

def infinity : F64 := 0x7FF0000000000000

/-- The state with a host event pending. -/
def pending (e : HostEvent) (s : State) : State := { s with hostEvents := [e] }

/-- The state with a command word issued. -/
def issued (w : Word) (s : State) : State := s.issue w

/-- What a read at `a` returns. -/
def readsAs (s : State) (a : Addr) : Word :=
  match step (pending (.read a) s) with
  | .next t => t.hrdata
  | .fault _ => 0
  | .refused _ => 0

theorem exists_ok {ε α : Type} {e : Except ε α} (h : e.toOption.isSome = true) : ∃ y, e = .ok y := by
  cases e with
  | ok y => exact ⟨y, rfl⟩
  | error _ => cases h

theorem params_valid : params.Valid where
  numRx := by decide
  maxTaps := by decide
  defaultTaps := by decide
  maxLog2n := by decide
  maxFramePairs := by decide
  audioDepth := ⟨14, by decide, by decide⟩
  resetLog2n := by decide
  resetThrottle := by decide

/-! ## Well-formedness: the one check of R121 step 4 refuses a slot that does not exist -/

theorem test_wf_refuses_slot_16 :
    (Instr.addRx 16).wellFormed 16 = false ∧ (Instr.removeRx 16).wellFormed 16 = false ∧
    (Instr.retuneRx 1).wellFormed 1 = false ∧ (Instr.stopRx 255).wellFormed 16 = false ∧
    (Instr.configureRx 16).wellFormed 16 = false ∧ (Instr.readTaps 2).wellFormed 2 = false := by decide

theorem test_wf_accepts_slot_15 :
    (Instr.addRx 15).wellFormed 16 = true ∧ (Instr.designFir).wellFormed 1 = true := by decide

/-! ## Decoding: the words of R122, bit by bit (RSV, SLOT, OPC) -/

theorem test_decode_nop : decode 16 0b0000000000000000_00000000_00000000 = .ok .nop := by decide
theorem test_decode_connect : decode 16 0b0000000000000000_00000000_00000001 = .ok .connect := by decide
theorem test_decode_disconnect : decode 16 0b0000000000000000_00000000_00000010 = .ok .disconnect := by decide
theorem test_decode_setFft : decode 16 0b0000000000000000_00000000_00000011 = .ok .setFft := by decide
theorem test_decode_softReset : decode 16 0b0000000000000000_00000000_00000100 = .ok .softReset := by decide
theorem test_decode_addRx : decode 16 0b0000000000000000_00000011_00010000 = .ok (.addRx 3) := by decide
theorem test_decode_removeRx : decode 16 0b0000000000000000_00001111_00010001 = .ok (.removeRx 15) := by decide
theorem test_decode_retuneRx : decode 16 0b0000000000000000_00000001_00010010 = .ok (.retuneRx 1) := by decide
theorem test_decode_stopRx : decode 16 0b0000000000000000_00000000_00010011 = .ok (.stopRx 0) := by decide
theorem test_decode_configureRx : decode 16 0b0000000000000000_00000100_00010100 = .ok (.configureRx 4) := by decide
theorem test_decode_readTaps : decode 16 0b0000000000000000_00001000_00010101 = .ok (.readTaps 8) := by decide
theorem test_decode_pushFrame : decode 16 0b0000000000000000_00000000_00100000 = .ok .pushFrame := by decide
theorem test_decode_designFir : decode 16 0b0000000000000000_00000000_00110000 = .ok .designFir := by decide

/-- The illegal words of R129, and the order of the checks. -/
theorem test_decode_rejects :
    decode 16 0x00000005 = .error .badOpcode ∧ decode 16 0x00010001 = .error .rsvNonzero ∧
    decode 16 0x00000101 = .error .slotNonzero ∧ decode 16 0x00001010 = .error .badSlot ∧
    decode 16 0xFFFFFFFF = .error .badOpcode ∧ decode 16 0x00011010 = .error .rsvNonzero := by decide

/-- A table word runs as the first command after reset. -/
theorem test_table_word_runs : (decodeTableWord 32 0x310 = some (.addRx 3)) ∧
    step (State.reset.withFetchWord 32 0x01) = exec .connect (State.reset.withFetchWord 32 0x01) :=
  ⟨by decide, rfl⟩

/-! ## NOP, CONNECT, DISCONNECT, SOFT_RESET -/

/-- R251's example. -/
theorem test_nop : (after .nop { idle with cmdSeq := 4 }).cmdSeq = 5 ∧ (after .nop idle).ip = 1 := by decide

/-- R252's example. -/
theorem test_connect :
    let t := after .connect { idle with args := { baseArgs with cf := 0x41A247DEE0000000, rate := 0x413F400000000000 } }
    t.status.connected = true ∧ t.wbCf = 0x41A247DEE0000000 ∧ t.wbRate = 0x413F400000000000 ∧ t.result = 0 := by
  decide +kernel

theorem test_connect_rejects :
    (after .connect { idle with args := { baseArgs with rate := 0x8000000000000000 } }).status.word = 0x00010A04 ∧
    (after .connect { idle with args := { baseArgs with cf := nan } }).status.word = 0x00020A04 := by decide +kernel

/-- R253's example. -/
theorem test_disconnect :
    let t := after .disconnect conf
    t.status.connected = false ∧ (slot0 t).regs.st = .configured ∧ t.ip.getLsbD 9 = true := by decide +kernel

/-- R254's example. -/
theorem test_softReset :
    let t := after .softReset conf
    t.cmdSeq = 1 ∧ t.ip = 1 ∧ t.status.word = 0 ∧ (slot0 t).regs.stateWord = 0 ∧ t.throttle = 1 := by decide +kernel

/-! ## SET_FFT, DESIGN_FIR -/

/-- V-FFT-SET. -/
theorem test_setFft :
    let t := after .setFft { ready with thrCnt := 9 }
    t.fftLog2n = 2 ∧ t.throttle = 2 ∧ t.thrCnt = 0 ∧ t.status.word = 0 := by decide +kernel

theorem test_setFft_rejects :
    (after .setFft { idle with args := { baseArgs with log2n := 17 } }).status.word = 0x00010904 ∧
    (after .setFft { idle with args := { baseArgs with throttle := 0 } }).status.word = 0x00020904 ∧
    (after .setFft { idle with args := { baseArgs with log2n := 0, throttle := 0 } }).status.word = 0x00010904 := by
  decide +kernel

/-- V-FIR-1. -/
theorem test_designFir :
    let t := after .designFir ready
    memRead64 t.mem 0x010000 = 0x3F04065912C5A232 ∧ memRead64 t.mem 0x010008 = 0x3FEFFF5FCD3769D2 ∧
    memRead32 t.mem 0x010014 = 0x3F040659 ∧ t.tapsN = 3 ∧ t.result = 3 := by decide +kernel

/-- V-FIR-ERR. -/
theorem test_designFir_rejects :
    (after .designFir { idle with args := { baseArgs with nTaps := 4, cutoff := 0x3FE6666666666666 } }).status.word
      = 0x00030604 ∧
    (after .designFir { idle with args := { baseArgs with nTaps := 1025 } }).status.word = 0x00040604 ∧
    (after .designFir { idle with args := { baseArgs with cutoff := 0x3FE0000000000000 } }).status.word = 0x00050604 ∧
    (after .designFir { idle with args := { baseArgs with cutoff := nan } }).status.word = 0x00050604 := by
  decide +kernel

/-! ## Slot commands -/

/-- V-RX-CFG's base row, as V-RX-DRIFT-1 gives it, and the values of V-NCO-4; HAS_TAG is set, HAS_LABEL is not. -/
theorem test_addRx :
    let r := (slot0 (after (.addRx 0) { conn with args := { baseArgs with flags := 0 } })).regs
    r.stateWord = 0x56 ∧ r.decim = 1 ∧ r.cutoff = 0x3FD0000000000000 ∧ r.pinc = 0x8000000000000000 ∧
    (slot0 (after (.addRx 0) conn)) = confSlot ∧ confSlot.regs.stateWord = 0x156 := by decide +kernel

/-- The STATUS of V-RX-CFG's rows. -/
theorem test_addRx_rejects :
    (after (.addRx 0) { conn with args := { baseArgs with bw := 0, nTaps := 4 } }).status.word = 0x00010606 ∧
    (after (.addRx 0) { conn with args := { baseArgs with outRate := 0xBFF0000000000000 } }).status.word = 0x00020606 ∧
    (after (.addRx 0) { conn with args := { baseArgs with mode := 6 } }).status.word = 0x00060606 ∧
    (after (.addRx 0) { conn with args := { baseArgs with cf := 0x4014000000000000 } }).status.word = 0x00080606 ∧
    (after (.addRx 0) { conn with args := { baseArgs with outRate := 0x3E012E0BE826D695 } }).status.word = 0x00070606 ∧
    (after (.addRx 0) { conn with args := { baseArgs with bw := 0x4010000000000000 } }).status.word = 0x00050606 ∧
    (after (.addRx 0) conf).status.word = 0x00000406 := by decide +kernel

/-- R256's example. -/
theorem test_removeRx :
    let t := after (.removeRx 0) conf
    (slot0 t).regs.stateWord = 0 ∧ t.result = 1 ∧ (after (.removeRx 0) t).result = 0 ∧
    (after (.removeRx 0) t).status.err = false := by decide +kernel

/-- V-RET-1: the registers RETUNE_RX reads are those of V-DEC-1. -/
theorem test_retuneRx :
    let x := { slot0 conf with
      regs := { (slot0 conf).regs with pcf := 0x41A247DEE0000000, prate := 0x413F400000000000, phase := f64One } }
    let s := { conf with slots := [x], args := { baseArgs with cf := 0x41A2482D00000000 } }
    let r := (slot0 (after (.retuneRx 0) s)).regs
    r.offset = 0x40C3880000000000 ∧ r.pinc = 0xBF9F6A7A2955385E ∧ r.phase = 0 ∧ r.cf = 0x41A2482D00000000 := by
  decide +kernel

/-- V-RET-2. -/
theorem test_retuneRx_other :
    (after (.retuneRx 1) conf).status.word = 2 ∧ (after (.retuneRx 1) conf).result = 0 ∧
    (after (.retuneRx 0) { conf with args := { baseArgs with cf := nan } }).status.word = 0x00080606 ∧
    (slot0 (after (.retuneRx 0) { unconf with args := { baseArgs with cf := 0x401C000000000000 } })).regs.offset
      = 0x401C000000000000 := by decide +kernel

/-- V-RX-STOP-1, steps 1 and 5. -/
theorem test_stopRx :
    (slot0 stopped).regs.stateWord = 0x153 ∧ stopped.result = 0 ∧ stopped.ip.getLsbD 9 = true ∧
    (after (.stopRx 1) conf).status.word = 0x00000506 ∧
    (after (.stopRx 0) { unconf with status := { unconf.status with connected := true } }).status.word = 0x00010B06 := by
  decide +kernel

/-- V-RX-STOP-1, steps 4 and 5. -/
theorem test_configureRx :
    (slot0 (after (.configureRx 0) stopped)).regs.stateWord = 0x156 ∧ (after (.configureRx 0) stopped).result = 1 ∧
    (after (.configureRx 0) (after .disconnect conf)).status.word = 0x00000704 := by decide +kernel

/-- V-FIR-1's taps, which the slot of V-RX-CFG holds; V-RX-STOP-1, step 5. -/
theorem test_readTaps :
    let t := after (.readTaps 0) conf
    memRead64 t.mem 0x010008 = 0x3FEFFF5FCD3769D2 ∧ t.tapsN = 3 ∧ t.result = 3 ∧
    (after (.readTaps 0) unconf).status.word = 0x00020B04 := by decide +kernel

/-! ## PUSH_FRAME -/

/-- V-DEM-RAW-1's first two words; the transform of 4 finds two pairs only, so no spectrum is written. -/
theorem test_pushFrame :
    let t := after .pushFrame framed
    memRead32 t.mem 0x800000 = 0x38F04C2D ∧ memRead32 t.mem 0x800004 = 0x403FFE1F ∧
    (slot0 t).regs.lastNout = 2 ∧ (slot0 t).regs.audWptr = 2 ∧ t.result = 0 ∧ t.spec.seq = 0 := by decide +kernel

/-- V-RX-DRIFT-1, step 1. -/
theorem test_pushFrame_drift :
    let t := after .pushFrame { framed with frame := ⟨1, 0x4000000000000000, 0, 5⟩ }
    (slot0 t).regs.stateWord = 0x15D ∧ t.ip.getLsbD 5 = true ∧ (slot0 t).regs.frames = 1 ∧
    t.status.word = 2 ∧ t.wbRate = 0x4000000000000000 := by decide +kernel

/-- The state after a frame in the given mode. -/
def afterMode (m : Mode) (s : State) : State :=
  after .pushFrame { s with slots := s.slots.map fun x => { x with regs := { x.regs with mode := m } } }

/-- V-DEM-AM-1 and V-DEM-LSB-1, the second word; V-DEM-NFM-CORNER, its rows (1, 1), (-1, -1) and (1, -1). -/
theorem test_pushFrame_demodulators :
    memRead32 (afterMode .am framed).mem 0x800004 = 0x409FFE70 ∧
    memRead32 (afterMode .lsb framed).mem 0x800004 = 0x407FFD7F ∧
    memRead32 (afterMode .nfm (withFrame 1 [0x3F800000, 0x3F800000] conf)).mem 0x800000 = 0 ∧
    memRead32 (afterMode .nfm (withFrame 1 [0xBF800000, 0xBF800000] conf)).mem 0x800000 = 0x3F800000 ∧
    memRead32 (afterMode .nfm (withFrame 1 [0x3F800000, 0xBF800000] conf)).mem 0x800000 = 0x80000000 := by decide +kernel

/-- R238: an envelope beyond the binary32 range is replaced by +0.0, counted and flagged. The second of two pairs of the
largest binary32 value gives one. -/
theorem test_pushFrame_guard :
    let t := afterMode .am { withFrame 2 [0x7F7FFFFF, 0x7F7FFFFF, 0x7F7FFFFF, 0x7F7FFFFF] conf with fftLog2n := 2 }
    (slot0 t).regs.numFault = 1 ∧ memRead32 t.mem 0x800004 = 0 ∧ t.ip.getLsbD 4 = true ∧
    (slot0 t).regs.audWptr = 2 := by decide +kernel

/-- The default record has the named properties of R16. -/
theorem num64_P1 : num64.P1 := ⟨rfl, rfl, rfl, rfl, rfl, rfl⟩

theorem num64_P2 : num64.P2 :=
  ⟨by decide +kernel, by decide +kernel, by decide +kernel, by decide +kernel, by decide +kernel, by decide +kernel⟩

theorem num64_P3 : num64.P3 := by
  have h : num64.log10 0x3DDB7CDFD9D7BDBB = BitVec.ofNat 64 (0xC023FFFFFFFFFFFF + Config.log10FloorOpen % 3) := rfl
  have h3 := Nat.mod_lt Config.log10FloorOpen (show 3 > 0 by decide)
  rw [Numerics.P3, h]
  generalize Config.log10FloorOpen % 3 = r at h3
  match r, h3 with
  | 0, _ => decide
  | 1, _ => decide
  | 2, _ => decide

/-- NUM is a parameter of the instance: the default's is NUM64, another's is an arbitrary record. -/
theorem test_num_selects : State.reset.num = num64 ∧
    (State.powerOn { params with num := .other 5 }).num = Config.numOpen 5 := ⟨rfl, rfl⟩

/-- NUM64 with a given log10. -/
def withLog (v : F64) : Numerics := { num64 with log10 := fun _ => v }

/-- The words of a spectrum of two zero pairs, when log10(AMP_FLOOR) is `v`. -/
def floorWords (v : F64) : List F32 := specWords (withLog v) 0 (spectrumDb (withLog v) 1 zeroFrame.mem)

/-- V-FFT-1 for N = 2: -200.0 in every bin, whichever of its three values log10(AMP_FLOOR) takes (P3). -/
theorem test_spectrum_floor :
    floorWords 0xC023FFFFFFFFFFFF = [0xC3480000, 0xC3480000] ∧
    floorWords 0xC024000000000000 = [0xC3480000, 0xC3480000] ∧
    floorWords 0xC024000000000001 = [0xC3480000, 0xC3480000] := by decide +kernel

/-- V-NCO-3. -/
theorem test_wrap :
    wrapPhase num64 0xC00921FB54442D18 = 0x400921FB54442D18 ∧ wrapPhase num64 0x400C000000000000 = 0xC00643F6A8885A30 ∧
    wrapPhase num64 0xC010000000000000 = 0x400243F6A8885A30 := by decide +kernel

/-- V-WIN-1. -/
theorem test_window : bh num64 0 2 = 0x3F0F75104D551E00 ∧ bh num64 1 2 = 0x3F0F75104D551E00 ∧
    bh num64 1 3 = 0x3FF0000000000000 ∧ bh num64 2 3 = 0x3F0F75104D551E00 := by decide +kernel

/-! ## The bus -/

/-- R31's constants and PARAM0, and V-FFT-EFF. -/
theorem test_bus_reads :
    readsAs idle 0x000 = 0x53464348 ∧ readsAs idle 0x004 = 0x00010007 ∧ readsAs idle 0x008 = 0x03FF1010 ∧
    readsAs { conn with fftLog2n := 2, throttle := 2 } 0x054 = 0x3FE00000 ∧ readsAs idle 0x02A = 0 ∧
    readsAs idle 0x001000 = 0 := by decide +kernel

/-! ## Witnesses: states and operands that meet the hypotheses of each obligation, clause by clause -/

/-- The command step of slot 0 of `s` answers. -/
theorem slot0_conf : conf.slots[(0 : BitVec 8).toNat]? = some (slot0 conf) := by decide +kernel

theorem slot0_unconf : unconf.slots[(0 : BitVec 8).toNat]? = some (slot0 unconf) := by decide +kernel

theorem slot0_stopped : stopped.slots[(0 : BitVec 8).toNat]? = some (slot0 stopped) := by decide +kernel

theorem slot0_idle : idle.slots[(0 : BitVec 8).toNat]? = some RxSlot.reset := by decide +kernel

theorem witness_EncodeThenDecode :
    (Instr.addRx 15).wellFormed 16 = true ∧ (Instr.pushFrame).wellFormed 1 = true := by decide

theorem witness_OpcodeMapByMatchAndMask :
    ((0x00000F15 : Word) &&& 0xFFFF00FF) = 0x00000015 ∧ ((0x00000F15 : Word).extractLsb' 8 8).toNat < 16 ∧
    ∃ i, decode 16 0x00000F15 = .ok i := ⟨by decide, by decide, _, rfl⟩

/-- One word for each of the five clauses: an undefined OPC, RSV, SLOT on a command without one, slot 16 of 16, and slot
15 of 16. -/
theorem witness_DecodeChecksInOrder :
    (∀ w, (issued w idle).hostEvents = [] ∧ (issued w idle).status.busy = true ∧ (issued w idle).cmd = w) ∧
    opcodeOf (opcOf 0x00000005) = none ∧ rsvOf 0x00010001 ≠ 0 ∧ slotOf 0x00000101 ≠ 0 ∧
    (slotOf 0x00001010).toNat = idle.params.numRx ∧ (slotOf 0x00000F10).toNat < idle.params.numRx :=
  ⟨fun _ => ⟨rfl, rfl, rfl⟩, by decide, by decide, by decide, by decide, by decide⟩

theorem witness_StepRunsDecodedCommand :
    ((issued 0x310 idle).status.busy = true ∧ decode idle.params.numRx (issued 0x310 idle).cmd = .ok (.addRx 3) ∧
      (issued 0x310 idle).hostEvents = []) ∧
    ({ issued 0x310 idle with hostEvents := [.engine] } : State).status.busy = true ∧
    idle.status.busy = false ∧ idle.hostEvents = [] ∧ (pending .engine idle).hostEvents = .engine :: [] := by decide

theorem witness_ErrorsArePrecise :
    (issued 0x04 conf).hostEvents = [] ∧ (issued 0x04 conf).status.busy = true := ⟨rfl, rfl⟩

theorem witness_EventsComeFromTheirCauses : Instr.pushFrame ≠ .softReset ∧ Instr.connect ≠ .softReset ∧
    Instr.connect ≠ .pushFrame := by decide

theorem witness_CommandsReadOnlyTheirOperands :
    agreeOn .connect baseArgs { baseArgs with bw := 0, nTaps := 77 } ∧ agreeOnFrame .connect framed.frame idle.frame ∧
    ∃ t, exec .connect ready = .next t := ⟨⟨rfl, rfl⟩, fun h => absurd h (by decide), _, rfl⟩

/-- Slot 0 goes from EMPTY to CONFIGURED. -/
theorem witness_SlotStateMachine :
    let t := after (.addRx 0) conn
    exec (.addRx 0) conn = .next t ∧ conn.slots[0]? = some RxSlot.reset ∧ t.slots[0]? = some confSlot :=
  ⟨rfl, by decide +kernel⟩

/-- Its three cases, and on each kind of slot: EMPTY, configured, and one whose configure fails (A_BW = 4). -/
theorem witness_ConnectConfiguresEverySlot :
    f64FinitePos 0 = false ∧ f64FinitePos nan = false ∧ f64IsFinite infinity = false ∧
    f64FinitePos baseArgs.rate = true ∧ f64IsFinite baseArgs.cf = true ∧
    (∃ y, configure unconf.num 1023 0 baseArgs.rate (slot0 unconf) = .ok y) ∧
    configure unconf.num 1023 0 baseArgs.rate
      { slot0 unconf with regs := { (slot0 unconf).regs with bw := 0x4010000000000000 } } = .error .cutoff ∧
    (slot0 unconf).regs.st ≠ .empty ∧ (slot0 idle).regs.st = .empty :=
  ⟨by decide, by decide, by decide, by decide, by decide, exists_ok (by decide +kernel), by decide +kernel,
    by decide +kernel, by decide⟩

theorem witness_SetFftChecksAndWrites : idle.params.Valid ∧ baseArgs.log2n.toNat ≤ idle.params.maxLog2n ∧
    ¬ (baseArgs.log2n.toNat < 1) ∧ baseArgs.throttle ≠ 0 := ⟨params_valid, by decide, by decide, by decide⟩

/-- The four rejections; the degenerate sum is that of a record whose cosine and sine are 0 and whose sums are -1. -/
theorem witness_DesignFirRejectsInOrder :
    (0 : Word).toNat % 2 = 0 ∧ (1 : Word).toNat % 2 = 1 ∧ (1 : Word).toNat < 3 ∧ 1023 < (1025 : Word).toNat ∧
    f64Lt 0 nan = false ∧ f64Lt 0x3FE0000000000000 0x3FE0000000000000 = false ∧
    design num64 1023 4 0x3FD0000000000000 = .error .evenTaps ∧
    f64Lt 0 0x3FD0000000000000 = true ∧ f64Lt 0x3FD0000000000000 0x3FE0000000000000 = true ∧
    f64FinitePos (sumUp { num64 with add := fun _ _ => f64MinusOne }
      (rawTaps { num64 with add := fun _ _ => f64MinusOne } 3 0x3FD0000000000000)) = false := by decide +kernel

theorem witness_DesignFirWritesTaps :
    ∃ taps, design ready.num ready.params.maxTaps ready.args.nTaps.toNat ready.args.cutoff = .ok taps :=
  exists_ok (by decide +kernel)

theorem witness_AddRxRejectsInOrder : ready.slots[(15 : BitVec 8).toNat]? = some RxSlot.reset := by decide +kernel

theorem witness_AddRxWhileDisconnected : ready.slots[(15 : BitVec 8).toNat]? = some RxSlot.reset ∧
    RxSlot.reset.regs.st = .empty ∧ addChecks ready.params ready.args = .ok .raw ∧ ready.status.connected = false :=
  ⟨by decide +kernel, rfl, rfl, rfl⟩

/-- Both outcomes: the base arguments, and A_BW = 4. -/
theorem witness_AddRxWhileConnected :
    conn.slots[(15 : BitVec 8).toNat]? = some RxSlot.reset ∧ addChecks conn.params conn.args = .ok .raw ∧
    conn.status.connected = true ∧
    (∃ y, configure conn.num 1023 conn.wbCf conn.wbRate (newSlot conn.params conn.args .raw RxHidden.reset) = .ok y) ∧
    addChecks conn.params { baseArgs with bw := 0x4010000000000000 } = .ok .raw ∧
    configure conn.num 1023 conn.wbCf conn.wbRate
      (newSlot conn.params { baseArgs with bw := 0x4010000000000000 } .raw RxHidden.reset) = .error .cutoff :=
  ⟨by decide +kernel, by decide +kernel, by decide +kernel, exists_ok (by decide +kernel), by decide +kernel,
    by decide +kernel⟩

theorem witness_RemoveRxEmptiesTheSlot : conf.slots[(0 : BitVec 8).toNat]? = some (slot0 conf) ∧
    (slot0 conf).regs.st ≠ .empty ∧ RxSlot.reset.regs.st = .empty := ⟨slot0_conf, by decide +kernel, rfl⟩

theorem witness_RetuneRxMovesTheOffset : conf.slots[(0 : BitVec 8).toNat]? = some (slot0 conf) := slot0_conf

theorem witness_StopRxOnlyStops : conf.slots[(0 : BitVec 8).toNat]? = some (slot0 conf) := slot0_conf

/-- An EMPTY slot, a STOPPED slot disconnected and connected, and configures that succeed and fail. -/
theorem witness_ConfigureRxConfigures :
    RxSlot.reset.regs.st = .empty ∧ (slot0 stopped).regs.st ≠ .empty ∧ idle.status.connected = false ∧
    stopped.status.connected = true ∧ stopped.slots[(0 : BitVec 8).toNat]? = some (slot0 stopped) ∧
    (∃ y, configure stopped.num stopped.params.maxTaps stopped.wbCf stopped.wbRate (slot0 stopped) = .ok y) ∧
    configure stopped.num stopped.params.maxTaps stopped.wbCf 0x4000000000000000 (slot0 stopped) = .error .cutoff ∧
    (slot0 stopped).regs.nTaps.toNat % 2 = 1 :=
  ⟨rfl, by decide +kernel, by decide, by decide +kernel, slot0_stopped, exists_ok (by decide +kernel), by decide +kernel,
    by decide +kernel⟩

theorem witness_ReadTapsCopiesTaps :
    RxSlot.reset.regs.st = .empty ∧ (slot0 unconf).regs.st = .unconfigured ∧ (slot0 conf).regs.st = .configured ∧
    (slot0 stopped).regs.st = .stopped ∧ 2 < (slot0 conf).regs.nTaps.toNat ∧
    (slot0 conf).hidden.taps[2]? = some 0x3F04065912C5A232 := by decide +kernel

/-- One state for each of the four checks; F_NPAIRS at its bound and one above. -/
theorem witness_PushFrameRejectsInOrder :
    idle.status.connected = false ∧ conn.status.connected = true ∧
    (131072 : Word).toNat ≤ conn.params.maxFramePairs ∧ conn.params.maxFramePairs < (131073 : Word).toNat ∧
    f64FinitePos 0 = false ∧ f64FinitePos 0x4010000000000000 = true ∧ f64IsFinite infinity = false := by decide +kernel

theorem framed_accepted : framed.frameAccepted := by
  refine ⟨?_, ?_, ?_, ?_⟩ <;> decide +kernel

theorem zeroFrame_accepted : zeroFrame.frameAccepted := by
  refine ⟨?_, ?_, ?_, ?_⟩ <;> decide +kernel

theorem witness_PushFrameCompletes : framed.frameAccepted ∧ zeroFrame.frameAccepted ∧ zeroFrame.specDue = true ∧
    framed.specDue = false := ⟨framed_accepted, zeroFrame_accepted, by decide +kernel, by decide +kernel⟩

/-- The address before the spectrum and the one past the second sample's ring entry. -/
theorem witness_PushFrameMemoryFrame : framed.frameAccepted ∧ zeroFrame.frameAccepted ∧ zeroFrame.specDue = true ∧
    specBase - 1 < specBase ∧
    ((slot0 (after .pushFrame framed)).regs.audWptr - (slot0 framed).regs.audWptr).toNat = 2 ∧
    audAddr 16384 0 { (slot0 framed).regs with audWptr := 1 } + 4 = 0x800008 :=
  ⟨framed_accepted, zeroFrame_accepted, by decide +kernel⟩

theorem zeroFrame_control : zeroFrame.ControlInv := ⟨by decide +kernel, by decide +kernel⟩

theorem framed_control : framed.ControlInv := ⟨by decide +kernel, by decide +kernel⟩

theorem framed_params : framed.params = params := by decide +kernel

theorem zeroFrame_params : zeroFrame.params = params := by decide +kernel

/-- A slot of each state; the frame of V-RX-DRIFT-1, step 1, makes the configure fail, one at centre 1 configures the
slot anew, and that of `framed` finds it undrifted. -/
theorem witness_PushFrameServesEverySlot : framed.frameAccepted ∧ framed.slots[0]? = some (slot0 framed) ∧
    framed.params.Valid ∧ framed.ControlInv ∧
    RxSlot.reset.regs.st = .empty ∧ (slot0 stopped).regs.st = .stopped ∧ (slot0 unconf).regs.st = .unconfigured ∧
    (slot0 framed).regs.st = .configured ∧ f64Ne 0x4000000000000000 (slot0 framed).regs.prate = true ∧
    configure framed.num framed.params.maxTaps 0 0x4000000000000000 (slot0 framed) = .error .cutoff ∧
    f64Ne 0x3FF0000000000000 (slot0 framed).regs.pcf = true ∧
    (∃ z, configure framed.num framed.params.maxTaps 0x3FF0000000000000 0x4010000000000000 (slot0 framed) = .ok z) ∧
    f64Ne framed.frame.rate (slot0 framed).regs.prate = false ∧ f64Ne framed.frame.cf (slot0 framed).regs.pcf = false :=
  ⟨framed_accepted, by decide +kernel, framed_params ▸ params_valid, framed_control, by decide +kernel,
    by decide +kernel, by decide +kernel, by decide +kernel, by decide +kernel, by decide +kernel,
    by decide +kernel, exists_ok (by decide +kernel), by decide +kernel, by decide +kernel⟩

theorem witness_SpectrumIsStoredShifted :
    zeroFrame.frameAccepted ∧ zeroFrame.specDue = true ∧ zeroFrame.params.Valid ∧ zeroFrame.ControlInv :=
  ⟨zeroFrame_accepted, by decide +kernel, zeroFrame_params ▸ params_valid, zeroFrame_control⟩

/-- `framed` with other registers and without the other slots. -/
def framed2 : State := { framed with cmdSeq := 77, fftLog2n := 1, tapsN := 5, slots := [slot0 framed] }

theorem framed2_accepted : framed2.frameAccepted := by
  refine ⟨?_, ?_, ?_, ?_⟩ <;> decide +kernel

theorem push_answers (s : State) : ∃ t, exec .pushFrame s = .next t := ⟨_, rfl⟩

/-- Two states whose other registers and other slots differ. -/
theorem witness_SlotsAreIsolated :
    let s' := framed2
    framed.params.Valid ∧ framed.ControlInv ∧ s'.ControlInv ∧ s'.params = framed.params ∧ framed.frameAccepted ∧
    s'.frameAccepted ∧ s'.frame = framed.frame ∧ sameFrameMem framed.params framed.mem s'.mem ∧
    framed.slots[0]? = s'.slots[0]? ∧ (∃ t, exec .pushFrame framed = .next t) ∧ ∃ t, exec .pushFrame s' = .next t :=
  ⟨framed_params ▸ params_valid, framed_control, ⟨by decide +kernel, by decide +kernel⟩, by decide +kernel,
    framed_accepted, framed2_accepted, by decide +kernel,
    by rw [show framed2.mem = framed.mem by decide +kernel]; exact fun _ _ _ => rfl, by decide +kernel,
    push_answers _, push_answers _⟩

theorem witness_TapsAreSymmetric : ∃ taps, design num64 1023 3 0x3FD0000000000000 = .ok taps :=
  exists_ok (by decide +kernel)

theorem witness_PermutationReversesBits : 2 < 3 ∧ 7 < 2 ^ 3 ∧ [f64One, 0, 0, 0, 0, 0, 0, 0].length = 2 ^ 3 := by decide

/-- NUM64 with constant transcendental functions. -/
def flatNum : Numerics :=
  { num64 with sin := fun _ => 0, cos := fun _ => f64One, log10 := fun _ => 0xC024000000000000 }

theorem flat_sin (x : F64) : f64IsFinite (flatNum.sin x) = true := by
  show f64IsFinite 0 = true
  decide

theorem flat_cos (x : F64) : f64IsFinite (flatNum.cos x) = true := by
  show f64IsFinite f64One = true
  decide

theorem flat_P1 : flatNum.P1 := ⟨rfl, rfl, rfl, rfl, rfl, rfl⟩

theorem witness_AllZeroFrameGivesTheFloor :
    flatNum.P1 ∧ flatNum.P3 ∧ flatNum.FiniteTrig ∧
    (∀ i, i < 2 ^ 1 → frameWord zeroFrame.mem (2 * i) = 0 ∧ frameWord zeroFrame.mem (2 * i + 1) = 0) ∧
    ∃ w, w ∈ specWords flatNum 0 (spectrumDb flatNum 1 zeroFrame.mem) :=
  ⟨flat_P1, by simp [Numerics.P3, flatNum], fun x => ⟨flat_sin x, flat_cos x⟩, by decide +kernel, 0xC3480000,
    by decide +kernel⟩

/-- In range already; 3.5, above PI; -4.0, at most -PI. -/
theorem witness_PhaseIsWrapped : inPhaseRange 0 = true ∧ inPhaseRange f64Pi = true ∧
    f64Lt f64Pi 0x400C000000000000 = true ∧ inPhaseRange (num64.sub 0x400C000000000000 f64TwoPi) = true ∧
    f64Le 0xC010000000000000 (f64Flip f64Pi) = true ∧ inPhaseRange (num64.add 0xC010000000000000 f64TwoPi) = true := by
  decide +kernel

/-- Three pushes fill the delay lines of the CONFIGURED slot. -/
theorem witness_FilterConvolvesTheLastSamples :
    0 < 3 ∧ (slot0 conf).hidden.dlI.length = 3 ∧ (slot0 conf).hidden.dlQ.length = 3 ∧ (slot0 conf).hidden.dlW < 3 ∧
    3 ≤ [(f64One, f64One), (0, 0), (f64One, 0)].length := by decide +kernel

theorem witness_DecimatorCountsOutputs : (slot0 conf).regs.dcnt.toNat < (slot0 conf).regs.decim.toNat := by
  decide +kernel

/-- An output is due with RX_DECIM = 1 and RX_DCNT = 0, and not due with RX_DECIM = 2. -/
theorem witness_PairAdvancesTheChannel : (1 : Word).toNat ≤ (0 : Word).toNat + 1 ∧
    (0 : Word).toNat + 1 < (2 : Word).toNat := by decide

/-- 1.0 is kept; the largest binary64 value becomes an infinity. -/
theorem witness_GuardReplacesNonFinite : (num64.toF32 f64One).toNat % 2 ^ 31 < 0x7F800000 ∧
    0x7F800000 ≤ (num64.toF32 0x7FEFFFFFFFFFFFFF).toNat % 2 ^ 31 := by decide +kernel

/-- V-RING-1: a ring of one entry, empty and full. -/
theorem witness_RingStoresOrDrops : (1 : Word) - 0 = BitVec.ofNat 32 1 ∧ (0 : Word) - 0 ≠ BitVec.ofNat 32 1 := by
  decide

/-- The three failing checks and the commit, on the slot of V-RX-CFG: an infinite centre, a parent rate of 2^40, an even
tap count. -/
theorem witness_ConfigureIsAllOrNothing :
    f64IsFinite (f64Sub infinity 0) = false ∧ f64IsFinite (f64Sub 0 0) = true ∧
    f64Le (f64Abs (f64Sub 0 0)) 0x4270000000000000 = true ∧
    f64Lt (f64Div 0x4270000000000000 0x3FF0000000000000) 0x41F0000000000000 = false ∧
    f64Lt (f64Div 0x4010000000000000 0x4010000000000000) 0x41F0000000000000 = true ∧
    design num64 1023 4 0x3FD0000000000000 = .error .evenTaps ∧
    ∃ taps, design num64 1023 3 0x3FD0000000000000 = .ok taps :=
  ⟨by decide +kernel, by decide +kernel, by decide +kernel, by decide +kernel, by decide +kernel, rfl,
    exists_ok (by decide +kernel)⟩

/-- The largest subnormal and the largest finite binary32. -/
theorem witness_WideningIsExact : (0x007FFFFF : F32).toNat % 2 ^ 31 < 0x7F800000 ∧
    (0xFF7FFFFF : F32).toNat % 2 ^ 31 < 0x7F800000 := by decide

theorem witness_AddressMapWindows : params.Valid := params_valid

/-- A misaligned address, an unmapped one, a read-only window, and the last CSR offset. -/
theorem witness_RejectedAccessesOnlyFlag :
    (0x000002 : Addr).toNat % 4 ≠ 0 ∧ windowOf params (0x001000 : Addr).toNat = .unmapped ∧
    windowOf params (0x010000 : Addr).toNat = .tap ∧ (0x000FFC : Addr).toNat % 4 = 0 ∧
    (0x000FFC : Addr).toNat < 0x1000 ∧ (pending (.read 0x000002) idle).hostEvents = .read 0x000002 :: [] := by
  decide +kernel

theorem witness_BusyWritesAreHazards :
    (pending (.write 0x028 7) (issued 0 idle)).status.busy = true ∧
    (pending (.write 0x028 7) (issued 0 idle)).hostEvents = .write 0x028 7 :: [] := ⟨rfl, rfl⟩

theorem witness_CommandRegister :
    (pending (.write 0x018 1) idle).status.busy = false ∧ (pending (.write 0x018 1) idle).hostEvents = .write 0x018 1 :: [] ∧
    (pending (.write 0x018 1) (issued 0 idle)).status.busy = true ∧
    (pending (.read 0x018) idle).hostEvents = .read 0x018 :: [] := ⟨rfl, rfl, rfl, rfl⟩

theorem witness_InterruptRegisters :
    (pending (.write 0x028 1) idle).hostEvents = .write 0x028 1 :: [] ∧
    (pending (.read 0x028) idle).hostEvents = .read 0x028 :: [] ∧
    (pending (.write 0x02C 1) idle).hostEvents = .write 0x02C 1 :: [] ∧
    (pending (.read 0x02C) idle).hostEvents = .read 0x02C :: [] := ⟨rfl, rfl, rfl, rfl⟩

/-- The first and last storage offsets, and the reserved offset after the last. -/
theorem witness_HostRegistersAreStorage :
    (pending (.write 0x080 1) idle).status.busy = false ∧ (pending (.write 0x080 1) idle).hostEvents = .write 0x080 1 :: [] ∧
    (0x080 ≤ (0x080 : Addr).toNat ∧ (0x080 : Addr).toNat ≤ 0x0C4) ∧
    (0x0D8 ≤ (0x0EC : Addr).toNat ∧ (0x0EC : Addr).toNat ≤ 0x0EC) ∧
    ((0x0F0 : Addr).toNat % 4 = 0 ∧ ¬ (0x0D8 ≤ (0x0F0 : Addr).toNat ∧ (0x0F0 : Addr).toNat ≤ 0x0EC)) ∧
    ¬ ∃ k, k < idle.params.numRx ∧ (0x0F0 : Addr).toNat = 0x400 + 0x80 * k + 0x64 :=
  ⟨rfl, rfl, by decide, by decide, by decide, fun ⟨k, _, h⟩ => by
    have : (0x0F0 : Addr).toNat = 0xF0 := rfl
    omega⟩

/-- The last words of FRAME_MEM, TAP_MEM, SPEC_MEM and AUD_MEM. -/
theorem witness_FrameMemHoldsWhatIsWritten : (0x2FFFFC : Addr).toNat % 4 = 0 ∧
    windowOf params (0x2FFFFC : Addr).toNat = .frame ∧ (pending (.write 0x2FFFFC 1) idle).status.busy = false ∧
    (pending (.write 0x2FFFFC 1) idle).hostEvents = .write 0x2FFFFC 1 :: [] ∧
    (pending (.read 0x2FFFFC) idle).hostEvents = .read 0x2FFFFC :: [] ∧
    windowOf params (0x011FF4 : Addr).toNat = .tap ∧ windowOf params (0x13FFFC : Addr).toNat = .spec ∧
    windowOf params (0xBCFFFC : Addr).toNat = .audio := by decide +kernel

/-- The read pointer of slot 15. -/
theorem witness_ReadPointerIsWarl :
    let s := pending (.write 0xBE4 1) { conf with slots := conf.slots.set 15 (slot0 conf) }
    s.status.busy = false ∧ s.hostEvents = .write 0xBE4 1 :: [] ∧ 15 < s.params.numRx ∧
    (0xBE4 : Addr).toNat = 0x400 + 0x80 * 15 + 0x64 ∧ s.slots[15]? = some (slot0 conf) ∧
    (slot0 conf).regs.st ≠ .empty := by decide +kernel

theorem witness_ReadsHaveNoSideEffect : (pending (.read 0x001000) idle).hostEvents = .read 0x001000 :: [] := rfl

/-- An address of each kind: AUD_MEM of slot 15, FRAME_MEM, RESULT, the last register of slot 15, and CMD. -/
theorem witness_BusyReadsOfEngineStateAreDraws :
    (pending (.read 0xBC0000) (issued 0 idle)).status.busy = true ∧
    (pending (.read 0xBC0000) (issued 0 idle)).hostEvents = .read 0xBC0000 :: [] ∧
    windowOf params (0xBC0000 : Addr).toNat = .audio ∧ windowOf params (0x200000 : Addr).toNat = .frame ∧
    (0x020 : Addr).toNat = 0x020 ∧ (0xBF8 : Addr).toNat = 0x400 + 0x80 * 15 + 0x78 ∧ (0x018 : Addr).toNat ≤ 0x01C := by
  decide +kernel

/-- The first and last global registers listed, PARAM0, the last descriptor register, the first and last reserved offsets,
the last offset of slot 15, and the first bank absent from an instance of two slots. -/
theorem witness_RegisterLayout :
    (pending (.read 0x000) idle).status.busy = false ∧ (pending (.read 0x000) idle).hostEvents = .read 0x000 :: [] ∧
    (0x000 : Addr).toNat = 0x000 ∧ (0x11C : Addr).toNat = 0x11C ∧ (0x008 : Addr).toNat = 0x008 ∧
    (0x0EC : Addr).toNat = 0x0EC ∧ (0x014 : Addr).toNat % 4 = 0 ∧ 0x120 ≤ (0x3FC : Addr).toNat ∧
    (0x3FC : Addr).toNat < 0x400 ∧ (0x500 : Addr).toNat = 0x400 + 0x80 * pairParams.numRx ∧ idle.slots[15]? = some RxSlot.reset ∧
    (0xBFC : Addr).toNat = 0x400 + 0x80 * 15 + 0x7C ∧ 15 < idle.params.numRx := by decide +kernel

theorem witness_PackedRegisterFields : params.Valid := params_valid

theorem witness_ResetPortGivesResetValues : (pending .rst conf).hostEvents = .rst :: [] := rfl

theorem witness_PowerOnRegisterValues : params.Valid ∧ (0x080 ≤ 0xFFC ∧ 0xFFC < 0x1000) :=
  ⟨params_valid, by decide⟩

theorem witness_StepKeepsMemoryCanonical : framed.mem.wf ∧ ∃ t, step (issued 0x20 framed) = .next t :=
  ⟨by decide +kernel, _, rfl⟩

theorem witness_StepKeepsControlLegal :
    framed.params.Valid ∧ framed.ControlInv ∧ ∃ t, step (issued 0x20 framed) = .next t :=
  ⟨framed_params ▸ params_valid, framed_control, _, rfl⟩

theorem pairParams_valid : pairParams.Valid := { params_valid with numRx := by decide }

theorem live_confSlot : confSlot.LiveInv pairParams.num.record :=
  ⟨by decide, by decide, by decide, by decide, by decide, by decide, by decide, fun _ => by decide⟩

theorem confSlot_inv : confSlot.Inv pairParams where
  empty := by decide
  phase := fun _ => .inl (by decide)
  nTaps := by decide
  fill := by decide
  live := fun _ => live_confSlot

/-- The receiver stopped. -/
def stoppedSlot : RxSlot := { confSlot with regs := { confSlot.regs with st := .stopped } }

theorem stoppedSlot_inv : stoppedSlot.Inv pairParams where
  empty := by decide
  phase := fun _ => .inl (by decide)
  nTaps := by decide
  fill := by decide
  live := fun _ => { live_confSlot with }

/-- A connected instance with a CONFIGURED slot and a STOPPED one, a PUSH_FRAME pending. -/
def twoSlots : State := { issued 0x20 conf with params := pairParams, slots := [confSlot, stoppedSlot] }

theorem twoSlots_inv : twoSlots.SlotInv where
  params := pairParams_valid
  slots := by decide +kernel
  slot := by
    rw [show twoSlots.slots = [confSlot, stoppedSlot] from rfl, show twoSlots.params = pairParams from rfl]
    intro x hx
    rw [List.mem_cons, List.mem_singleton] at hx
    exact hx.elim (fun h => h ▸ confSlot_inv) (fun h => h ▸ stoppedSlot_inv)
  wideband := by decide +kernel

theorem witness_StepKeepsSlotsSound : twoSlots.SlotInv ∧ ∃ t, step twoSlots = .next t := ⟨twoSlots_inv, _, rfl⟩

end Sys2Proof.Tests
end

section
/-! PROOFS. The FFT control registers and the parameters (R6, R31, R38): what leaves them alone, what writes them, and
the step that keeps them legal. -/

namespace Sys2Proof.Machine

/-! ## What leaves the control registers alone -/

/-- Two states agree on the parameters and on the three registers the control invariant speaks of (R6, R38). -/
structure SameControl (s t : State) : Prop where
  params : t.params = s.params
  log2n : t.fftLog2n = s.fftLog2n
  throttle : t.throttle = s.throttle
  thrCnt : t.thrCnt = s.thrCnt

/-- What a step owes: the control state it leaves is legal, and the parameters are those it found. -/
def LegalAfter (s t : State) : Prop := t.ControlInv ∧ t.params = s.params

theorem SameControl.legalAfter {s t u : State} (h : SameControl t u) (ht : LegalAfter s t) : LegalAfter s u := by
  obtain ⟨⟨hlog, hthr⟩, hp⟩ := ht
  refine ⟨⟨?_, ?_⟩, h.params.trans hp⟩
  · rwa [h.log2n, h.params]
  · rwa [h.thrCnt, h.throttle]

theorem State.ControlInv.legalAfter {s : State} (h : s.ControlInv) : LegalAfter s s := ⟨h, rfl⟩

theorem sameControl_hostEvents (s : State) (es : List HostEvent) : SameControl s { s with hostEvents := es } :=
  ⟨rfl, rfl, rfl, rfl⟩

theorem sameControl_complete (s : State) (e : Option CmdError) (st0 : Bool × List RxSt) :
    SameControl s (s.complete e st0) := ⟨rfl, rfl, rfl, rfl⟩

theorem sameControl_setResult (s : State) (w : Word) : SameControl s (s.setResult w) := ⟨rfl, rfl, rfl, rfl⟩

theorem sameControl_spectrum (N : Numerics) (s : State) : SameControl s (spectrum N s) := ⟨rfl, rfl, rfl, rfl⟩

theorem sameControl_fanOutStep (N : Numerics) (s : State) : SameControl s (fanOutStep N s) := ⟨rfl, rfl, rfl, rfl⟩

/-- No read touches the control registers (R99). -/
theorem sameControl_busRead (N : Numerics) (a : Addr) (s : State) : SameControl s (busRead N a s) := by
  rcases busRead_cases N a s with ⟨-, h⟩ | ⟨-, w, h⟩ | ⟨-, -, h⟩ <;> rw [h] <;> exact ⟨rfl, rfl, rfl, rfl⟩

/-- FFT_LOG2N, THROTTLE and THR_CNT are read-only to the host (R38). -/
theorem sameControl_writeCsr (v : Word) (s : State) (r : Csr) : SameControl s (writeCsr v s r) := by
  cases r with
  | slot k q => rw [writeCsr]; split_ifs <;> exact ⟨rfl, rfl, rfl, rfl⟩
  | _ => exact ⟨rfl, rfl, rfl, rfl⟩

theorem sameControl_acceptWrite (a : Nat) (v : Word) (s : State) : SameControl s (acceptWrite a v s) := by
  unfold acceptWrite
  cases windowOf s.params a with
  | csr => exact sameControl_writeCsr v s _
  | _ => exact ⟨rfl, rfl, rfl, rfl⟩

/-- No write touches the control registers (R38, R97, R315). -/
theorem sameControl_busWrite (a : Addr) (v : Word) (s : State) : SameControl s (busWrite a v s) := by
  rcases busWrite_cases a v s with ⟨-, h⟩ | ⟨-, -, -, h⟩ | ⟨-, -, h⟩ <;> rw [h]
  · exact ⟨rfl, rfl, rfl, rfl⟩
  · exact ⟨rfl, rfl, rfl, rfl⟩
  · obtain ⟨hp, hl, ht, hc⟩ := sameControl_acceptWrite a.toNat v s
    exact ⟨hp, hl, ht, hc⟩

/-! ## What writes them: reset, SET_FFT and the throttle of PUSH_FRAME -/

/-- MAX_LOG2N is at most 16, so a legal size exponent fits the register's 5 bits (R6, R38). -/
theorem log2n_fits {p : Params} (hp : p.Valid) {n : Nat} (hn : n ≤ p.maxLog2n) : n % 2 ^ 5 = n := by
  have := hp.maxLog2n
  exact Nat.mod_eq_of_lt (by omega)

/-- The reset values of FFT_LOG2N and THROTTLE are held whole. -/
theorem toNat_resetLog2n {p : Params} (hp : p.Valid) : (BitVec.ofNat 5 p.resetLog2n).toNat = p.resetLog2n := by
  rw [BitVec.toNat_ofNat, log2n_fits hp hp.resetLog2n.2]

theorem toNat_resetThrottle {p : Params} (hp : p.Valid) :
    (BitVec.ofNat 32 p.resetThrottle).toNat = p.resetThrottle := by
  rw [BitVec.toNat_ofNat, Nat.mod_eq_of_lt hp.resetThrottle.2]

/-- The control state of a power-on is legal (R6, R38, R311). -/
theorem controlInv_powerOn {p : Params} (hp : p.Valid) : (State.powerOn p).ControlInv where
  log2n := by
    show minLog2n ≤ (BitVec.ofNat 5 p.resetLog2n).toNat ∧ (BitVec.ofNat 5 p.resetLog2n).toNat ≤ p.maxLog2n
    rw [toNat_resetLog2n hp]
    exact hp.resetLog2n
  throttle := by
    show 0 < (BitVec.ofNat 32 p.resetThrottle).toNat
    rw [toNat_resetThrottle hp]
    exact hp.resetThrottle.1

/-- A register reset gives the control registers their power-on values (R311). -/
theorem legalAfter_resetRegisters {s : State} (hp : s.params.Valid) : LegalAfter s s.resetRegisters :=
  ⟨⟨(controlInv_powerOn hp).log2n, (controlInv_powerOn hp).throttle⟩, rfl⟩

/-- SET_FFT checks what it writes (R151). -/
theorem legalAfter_setFftBody {s t : State} (hp : s.params.Valid) (h : setFftBody s = .ok t) : LegalAfter s t := by
  obtain ⟨hlo, hhi, hthr, rfl⟩ := setFftBody_ok_iff.1 h
  refine ⟨⟨?_, ?_⟩, rfl⟩
  · show minLog2n ≤ (s.args.log2n.setWidth 5).toNat ∧ (s.args.log2n.setWidth 5).toNat ≤ s.params.maxLog2n
    rw [BitVec.toNat_setWidth, log2n_fits hp hhi]
    exact ⟨hlo, hhi⟩
  · show 0 < s.args.throttle.toNat
    exact Nat.pos_of_ne_zero fun h0 => hthr (BitVec.eq_of_toNat_eq h0)

/-- THR_CNT returns to 0 when its successor would reach THROTTLE (R142). -/
theorem legalAfter_throttled {s : State} (h : s.ControlInv) : LegalAfter s (throttled s) := by
  refine ⟨⟨h.log2n, ?_⟩, rfl⟩
  show (if s.throttleDue then 0 else s.thrCnt + 1 : Word).toNat < s.throttle.toNat
  have hlt := h.throttle
  split_ifs with hdue
  · exact Nat.zero_lt_of_lt hlt
  · simp only [State.throttleDue, decide_eq_true_eq, not_le] at hdue
    bv_omega

theorem legalAfter_throttleAndSpectrum (N : Numerics) {s : State} (h : s.ControlInv) :
    LegalAfter s (throttleAndSpectrum N s) := by
  rcases throttleAndSpectrum_cases N s with ⟨-, e⟩ | ⟨-, e⟩ <;> rw [e]
  · exact (sameControl_spectrum N _).legalAfter (legalAfter_throttled h)
  · exact legalAfter_throttled h

/-- Of a frame's processing only the throttle writes a control register (R257). -/
theorem legalAfter_pushFrameBody {N : Numerics} {s t : State} (hs : s.ControlInv) (h : pushFrameBody N s = .ok t) :
    LegalAfter s t := by
  obtain ⟨-, -, -, -, rfl⟩ := pushFrameBody_ok_iff.1 h
  have hacc : (acceptFrame s).ControlInv := ⟨hs.log2n, hs.throttle⟩
  have hthr : LegalAfter s (throttleAndSpectrum N (acceptFrame s)) := legalAfter_throttleAndSpectrum N hacc
  exact (sameControl_setResult _ _).legalAfter ((sameControl_fanOutStep N _).legalAfter hthr)

/-! ## Commands and the step -/

/-- The commands whose rule writes no control register, on success. -/
theorem sameControl_commandBody {i : Instr} {s t : State} (h : commandBody i s = .ok t) (hr : i ≠ .softReset)
    (hf : i ≠ .setFft) (hp : i ≠ .pushFrame) : SameControl s t := by
  cases i with
  | softReset => exact absurd rfl hr
  | setFft => exact absurd rfl hf
  | pushFrame => exact absurd rfl hp
  | nop => obtain rfl := Except.ok.inj h; exact ⟨rfl, rfl, rfl, rfl⟩
  | disconnect => obtain rfl := Except.ok.inj h; exact ⟨rfl, rfl, rfl, rfl⟩
  | connect => obtain ⟨-, -, rfl⟩ := connectBody_ok_iff.1 h; exact ⟨rfl, rfl, rfl, rfl⟩
  | addRx k => obtain ⟨-, -, -, -, -, -, -, rfl⟩ := addRxBody_ok_iff.1 h; exact ⟨rfl, rfl, rfl, rfl⟩
  | removeRx k =>
    obtain ⟨-, -, ⟨-, rfl⟩ | ⟨-, rfl⟩⟩ := removeRxBody_ok_iff.1 h <;> exact ⟨rfl, rfl, rfl, rfl⟩
  | retuneRx k =>
    obtain ⟨-, -, ⟨-, rfl⟩ | ⟨-, -, -, rfl⟩⟩ := retuneRxBody_ok_iff.1 h <;> exact ⟨rfl, rfl, rfl, rfl⟩
  | stopRx k => obtain ⟨-, -, -, rfl⟩ := stopRxBody_ok_iff.1 h; exact ⟨rfl, rfl, rfl, rfl⟩
  | configureRx k => obtain ⟨-, -, -, -, -, -, rfl⟩ := configureRxBody_ok_iff.1 h; exact ⟨rfl, rfl, rfl, rfl⟩
  | readTaps k => obtain ⟨-, -, -, rfl⟩ := readTapsBody_ok_iff.1 h; exact ⟨rfl, rfl, rfl, rfl⟩
  | designFir => obtain ⟨-, -, rfl⟩ := designFirBody_ok_iff.1 h; exact ⟨rfl, rfl, rfl, rfl⟩

theorem legalAfter_commandBody {i : Instr} {s t : State} (hp : s.params.Valid) (hs : s.ControlInv)
    (h : commandBody i s = .ok t) (hr : i ≠ .softReset) : LegalAfter s t := by
  by_cases hf : i = .setFft
  · subst hf; exact legalAfter_setFftBody hp h
  by_cases hpush : i = .pushFrame
  · subst hpush; exact legalAfter_pushFrameBody hs h
  exact (sameControl_commandBody h hr hf hpush).legalAfter hs.legalAfter

/-- Every command leaves a legal control state, whether it succeeds or fails (R250, R254, R282). -/
theorem legalAfter_exec {i : Instr} {s t : State} (hp : s.params.Valid) (hs : s.ControlInv)
    (h : exec i s = .next t) : LegalAfter s t := by
  by_cases hr : i = .softReset
  · subst hr
    obtain rfl := Host.Outcome.next.inj h
    have hreset := (sameControl_setResult _ 0).legalAfter (legalAfter_resetRegisters hp)
    exact (sameControl_complete _ _ _).legalAfter hreset
  · rw [exec_eq_runCommand s hr] at h
    obtain rfl := Host.Outcome.next.inj h
    rcases runCommand_cases (commandBody i) s with ⟨u, hu, e⟩ | ⟨err, -, e⟩ <;> rw [e]
    · exact (sameControl_complete u _ _).legalAfter (legalAfter_commandBody hp hs hu hr)
    · exact (sameControl_complete s _ _).legalAfter hs.legalAfter

theorem legalAfter_engineTurn {s t : State} (hp : s.params.Valid) (hs : s.ControlInv)
    (h : engineTurn s = .next t) : LegalAfter s t := by
  unfold engineTurn engineStep at h
  split_ifs at h with hb
  · cases hc : fetchCommand s with
    | ok i => rw [hc] at h; exact legalAfter_exec hp hs h
    | error e =>
      rw [hc] at h
      obtain rfl := Host.Outcome.next.inj h
      exact (sameControl_complete s _ _).legalAfter hs.legalAfter
  · obtain rfl := Host.Outcome.next.inj h
    exact hs.legalAfter

/-- Settles O58, by the event the step takes: a host access writes no control register, a reset gives them their reset
values, and of the commands only SET_FFT, SOFT_RESET and PUSH_FRAME write one. -/
theorem stepKeepsControlLegal : Obligations.StepKeepsControlLegal := by
  intro s t hp hs h
  show LegalAfter s t
  cases hev : s.hostEvents with
  | nil => exact legalAfter_engineTurn hp hs (step_nil hev ▸ h)
  | cons e es =>
    have hpop := (sameControl_hostEvents s es).legalAfter hs.legalAfter
    cases e with
    | read a =>
      obtain rfl := Host.Outcome.next.inj (step_read hev ▸ h)
      exact (sameControl_busRead _ a _).legalAfter hpop
    | write a v =>
      obtain rfl := Host.Outcome.next.inj (step_write hev ▸ h)
      exact (sameControl_busWrite a v _).legalAfter hpop
    | rst =>
      obtain rfl := Host.Outcome.next.inj (step_rst hev ▸ h)
      exact legalAfter_resetRegisters (s := { s with hostEvents := es }) hp
    | engine =>
      exact legalAfter_engineTurn (s := { s with hostEvents := es }) hp hpop.1 (step_engine hev ▸ h)

end Sys2Proof.Machine
end

section
/-! PROOFS. The machine at power-on (R6, R50, R62, R76, R311): the default parameters are valid, and with valid
parameters the registers hold their reset values and every invariant holds. -/

namespace Sys2Proof.Machine

/-! ## The default parameters (R6) -/

/-- An open tap count is odd and within the bounds of R6, whatever the open number. -/
theorem openTaps_valid {maxTaps : Nat} (hodd : maxTaps % 2 = 1) (h3 : 3 ≤ maxTaps) :
    openTaps maxTaps % 2 = 1 ∧ 3 ≤ openTaps maxTaps ∧ openTaps maxTaps ≤ maxTaps := by
  have hlt : Config.defaultTapsOpen % ((maxTaps - 1) / 2) < (maxTaps - 1) / 2 := Nat.mod_lt _ (by omega)
  unfold openTaps
  omega

theorem params_default_valid : Params.default.Valid where
  numRx := by decide
  maxTaps := by decide
  defaultTaps := openTaps_valid (by decide) (by decide)
  maxLog2n := by decide
  maxFramePairs := by decide
  audioDepth := ⟨14, by decide, rfl⟩
  resetLog2n := by decide
  resetThrottle := by decide

/-! ## The slots at power-on (R50, R62) -/

theorem mem_slots_powerOn {p : Params} {x : RxSlot} (h : x ∈ (State.powerOn p).slots) : x = RxSlot.reset :=
  List.eq_of_mem_replicate h

theorem slots_length_powerOn (p : Params) : (State.powerOn p).slots.length = p.numRx := List.length_replicate

/-- An EMPTY slot at its reset values is sound: what is asked of a receiver is asked of no EMPTY slot. -/
theorem RxSlot.inv_reset (p : Params) : RxSlot.reset.Inv p where
  empty := fun _ => rfl
  phase := fun h => absurd rfl h
  nTaps := fun h => absurd rfl h
  fill := Nat.zero_le _
  live := fun h => by rcases h with h | h <;> cases h

theorem slotInv_powerOn {p : Params} (hp : p.Valid) : (State.powerOn p).SlotInv where
  params := hp
  slots := slots_length_powerOn p
  slot := fun _ hx => mem_slots_powerOn hx ▸ RxSlot.inv_reset p
  wideband := fun h => absurd h Bool.false_ne_true

/-- Settles O60: the default parameters are valid, and with valid parameters a power-on meets every invariant. -/
theorem resetMeetsInvariants : Obligations.ResetMeetsInvariants :=
  ⟨params_default_valid, List.Pairwise.nil, controlInv_powerOn params_default_valid,
    slotInv_powerOn params_default_valid⟩

/-! ## What the registers read as at power-on (R50, R76, R311) -/

/-- The registers that the spec does not clear at power-on (R6, R311), with SPEC_EFF, which is computed on a read
(R41). -/
def notClearedRegs : List Csr :=
  [.id, .version, .param0, .param1, .param2, .fftLog2n, .throttle, .specEff false, .specEff true]

theorem status_word_powerOn (p : Params) : (State.powerOn p).status.word = 0 := by
  show Status.word ⟨false, false, false, 0, 0⟩ = 0
  decide

theorem irq_powerOn (p : Params) : (State.powerOn p).irq = false := by
  show ((0 : BitVec 10) &&& 0 != 0) = false
  decide

theorem stateWord_reset : RxRegs.reset.stateWord = 0 := by decide

theorem half_zero (hi : Bool) : half hi 0 = 0 := by cases hi <;> rfl

theorem readSlotReg_reset (r : SlotReg) : readSlotReg RxRegs.reset r = 0 := by
  cases r with
  | cf hi | bw hi | outRate hi | offset hi | pcf hi | prate hi | phase hi | pinc hi | cutoff hi => exact half_zero hi
  | _ => rfl

/-- Every other register reads as 0. -/
theorem readCsr_powerOn (N : Numerics) (p : Params) {r : Csr} (hr : r ∉ notClearedRegs) :
    readCsr N (State.powerOn p) r = 0 := by
  cases r with
  | id | version | param0 | param1 | param2 | fftLog2n | throttle => exact absurd (by decide) hr
  | specEff hi => cases hi <;> exact absurd (by decide) hr
  | wbCf hi | wbRate hi | aCf hi | aRate hi | aBw hi | aOutRate hi | aCutoff hi | fRate hi | fCf hi | fTs hi
  | specCf hi | specRate hi | specTs hi => exact half_zero hi
  | slot k q =>
    simp only [readCsr]
    split
    · next x hx =>
      rw [mem_slots_powerOn (List.mem_of_getElem? hx)]
      exact readSlotReg_reset q
    · rfl
  | status => exact status_word_powerOn p
  | _ => rfl

/-- The registers with another power-on value stand below the argument registers (10_state.md section 2). -/
theorem globalMap_cleared : ∀ e ∈ globalMap, 0x080 ≤ e.1 → e.2 ∉ notClearedRegs := by decide

theorem csrAt_cleared (n : Nat) {o : Nat} (ho : 0x080 ≤ o) : csrAt n o ∉ notClearedRegs := by
  rcases csrAt_cases n o with ⟨-, h⟩ | ⟨k, r, -, -, -, h⟩ | ⟨-, h⟩ <;> rw [h]
  · cases hl : globalMap.lookup o with
    | none => decide
    | some r =>
      obtain ⟨l₁, l₂, hm, -⟩ := List.lookup_eq_some_iff.1 hl
      exact globalMap_cleared (o, r) (hm ▸ by simp) ho
  · simp [notClearedRegs]
  · decide

/-- Settles O56: the fields of a power-on by definition, FFT_LOG2N and THROTTLE because their registers hold the reset
values whole, and the reads register by register. -/
theorem powerOnRegisterValues : Obligations.PowerOnRegisterValues := by
  refine ⟨fun p hp => ?_, params_default_valid, rfl, rfl, rfl, slots_length_powerOn _⟩
  refine ⟨rfl, status_word_powerOn p, rfl, rfl, rfl, rfl, irq_powerOn p, toNat_resetLog2n hp,
    toNat_resetThrottle hp, rfl, rfl, rfl, rfl, rfl, slots_length_powerOn p, fun x hx => ?_,
    fun o ho _ => readCsr_powerOn _ p (csrAt_cleared p.numRx ho)⟩
  rw [mem_slots_powerOn hx]
  exact ⟨rfl, stateWord_reset⟩

end Sys2Proof.Machine
end

section
/-! PROOFS. Widening and narrowing (R12, R15): a finite binary32 datum is a binary64 datum with the same sign and value,
and narrowing that gives the binary32 datum back. -/

namespace Sys2Proof.Machine

/-! ## The parts of a binary32 encoding -/

/-- The exponent of a binary32 datum in units of its least subnormal; 0 for zeros and subnormals. -/
def f32Scale (x : F32) : Nat := x.toNat / 2 ^ 23 % 256 - 1

/-- The integer significand of a binary32 datum, with the implicit bit of a normal one. -/
def f32Sig (x : F32) : Nat :=
  if x.toNat / 2 ^ 23 % 256 = 0 then x.toNat % 2 ^ 23 else 2 ^ 23 + x.toNat % 2 ^ 23

theorem f32Sig_lt (x : F32) : f32Sig x < 2 ^ 24 := by unfold f32Sig; split_ifs <;> omega

/-- With a positive exponent the implicit bit is set. -/
theorem le_f32Sig {x : F32} (h : 0 < f32Scale x) : 2 ^ 23 ≤ f32Sig x := by
  unfold f32Scale at h
  unfold f32Sig
  rw [if_neg (by omega)]
  omega

/-- The magnitude as the model writes it, a significand times a power of two. -/
theorem f32_mag_eq (x : F32) :
    (if x.toNat / 2 ^ 23 % 256 = 0 then x.toNat % 2 ^ 23
      else (2 ^ 23 + x.toNat % 2 ^ 23) * 2 ^ (x.toNat / 2 ^ 23 % 256 - 1)) = f32Sig x * 2 ^ f32Scale x := by
  unfold f32Sig f32Scale
  split_ifs with h
  · rw [h, Nat.zero_sub, Nat.pow_zero, Nat.mul_one]
  · rfl

/-- The sign-less encoding counts units in the last place through the binades. -/
theorem f32_encoding_eq (x : F32) : f32Scale x * 2 ^ 23 + f32Sig x = x.toNat % 2 ^ 31 := by
  unfold f32Scale f32Sig
  split_ifs <;> omega

theorem f32Scale_lt {x : F32} (h : x.toNat % 2 ^ 31 < f32InfBits) : f32Scale x < 254 := by
  unfold f32InfBits at h
  unfold f32Scale
  omega

/-! ## Widening -/

/-- A finite sample is widened by one rounding of its magnitude. -/
theorem f64OfF32_of_finite {x : F32} (h : x.toNat % 2 ^ 31 < f32InfBits) :
    f64OfF32 x = f64Round (decide (2 ^ 31 ≤ x.toNat)) (f32Sig x * 2 ^ (f32Scale x + 925)) 1 := by
  have he : x.toNat / 2 ^ 23 % 256 ≠ 255 := by unfold f32InfBits at h; omega
  simp only [f64OfF32]
  rw [if_neg he, f32_mag_eq, Nat.mul_assoc, ← Nat.pow_add]

theorem f64Neg?_round (neg : Bool) (num den : Nat) : f64Neg? (f64Round neg num den) = neg :=
  f64Neg?_pack _ (lt_of_le_of_lt (roundNearest_le _ _ _ _) f64InfBits_lt)

/-- A significand of at most 53 bits below the overflow threshold is a binary64 datum: it is rounded to itself. -/
theorem f64Round_scaled (neg : Bool) {q m : Nat} (hq : q < 2 ^ 53) (hm : m ≤ 2044) :
    f64IsFinite (f64Round neg (q * 2 ^ m) 1) = true ∧ f64Mag (f64Round neg (q * 2 ^ m) 1) = q * 2 ^ m := by
  have hlt : q * 2 ^ m / 1 < 2 ^ 2097 := by
    have hprod : q * 2 ^ m < 2 ^ (53 + m) := by
      rw [pow_add]
      exact Nat.mul_lt_mul_of_pos_right hq (by positivity)
    rw [Nat.div_one]
    exact lt_of_lt_of_le hprod (Nat.pow_le_pow_right Nat.two_pos (by omega))
  obtain ⟨hfin, hmag⟩ := f64Round_of_lt neg hlt
  exact ⟨hfin, hmag.trans (round_scaled hq)⟩

theorem f64Mag_f64OfF32 {x : F32} (h : x.toNat % 2 ^ 31 < f32InfBits) :
    f64IsFinite (f64OfF32 x) = true ∧ f64Mag (f64OfF32 x) = f32Sig x * 2 ^ f32Scale x * 2 ^ 925 := by
  have hq : f32Sig x < 2 ^ 53 := lt_trans (f32Sig_lt x) (by norm_num)
  have hm : f32Scale x + 925 ≤ 2044 := by have := f32Scale_lt h; omega
  rw [f64OfF32_of_finite h, Nat.mul_assoc, ← Nat.pow_add]
  exact f64Round_scaled _ hq hm

theorem f64Neg?_f64OfF32 {x : F32} (h : x.toNat % 2 ^ 31 < f32InfBits) :
    f64Neg? (f64OfF32 x) = decide (2 ^ 31 ≤ x.toNat) := by
  rw [f64OfF32_of_finite h, f64Neg?_round]

/-! ## Narrowing -/

/-- Of a finite datum, toF32 rounds the magnitude and keeps the sign (R15). -/
theorem f64ToF32_of_finite {y : F64} (h : f64IsFinite y = true) :
    f64ToF32 y =
      BitVec.ofNat 32 ((if f64Neg? y then 2 ^ 31 else 0) + roundNearest 24 f32InfBits (f64Mag y) (2 ^ 925)) := by
  simp only [f64ToF32, f64IsNaN_false_of_finite h, f64IsInf_false_of_finite h, Bool.false_eq_true, if_false]

/-- A binary32 magnitude is rounded to its own encoding. -/
theorem roundNearest_f32 {x : F32} (h : x.toNat % 2 ^ 31 < f32InfBits) :
    roundNearest 24 f32InfBits (f32Sig x * 2 ^ f32Scale x * 2 ^ 925) (2 ^ 925) = x.toNat % 2 ^ 31 := by
  have hle : f32Scale x * 2 ^ (24 - 1) + f32Sig x ≤ f32InfBits := (f32_encoding_eq x).le.trans h.le
  rw [(roundNearest_exact (by norm_num) (Nat.two_pow_pos 925) (f32Sig_lt x) le_f32Sig hle).1]
  exact f32_encoding_eq x

theorem f64ToF32_f64OfF32 {x : F32} (h : x.toNat % 2 ^ 31 < f32InfBits) : f64ToF32 (f64OfF32 x) = x := by
  obtain ⟨hfin, hmag⟩ := f64Mag_f64OfF32 h
  rw [f64ToF32_of_finite hfin, f64Neg?_f64OfF32 h, hmag, roundNearest_f32 h]
  apply BitVec.eq_of_toNat_eq
  have hx := x.isLt
  rw [BitVec.toNat_ofNat]
  simp only [decide_eq_true_eq]
  split_ifs <;> omega

/-- Settles O42: the magnitude fits 53 bits, so widening rounds nothing, and it fits 24, so narrowing rounds nothing. -/
theorem wideningIsExact : Obligations.WideningIsExact := by
  intro x h
  obtain ⟨hfin, hmag⟩ := f64Mag_f64OfF32 h
  exact ⟨hfin, f64Neg?_f64OfF32 h, (f32_mag_eq x).symm ▸ hmag, f64ToF32_f64OfF32 h⟩

end Sys2Proof.Machine
end

section
/-! PROOFS. The spectrum of an all-zero frame (R16, R140 to R152): a finite window keeps the zeros, every stage of the
transform keeps them, and a zero amplitude is floored at AMP_FLOOR. -/

namespace Sys2Proof.Machine

/-! ## The window is finite (R140) -/

theorem two_pow_mul_congr {a b c d : Nat} (h : a + b = c + d) : 2 ^ a * 2 ^ b = 2 ^ c * 2 ^ d := by
  rw [← pow_add, ← pow_add, h]

/-- A coefficient of at most 1/2 scales a finite datum to a finite one: in units of 2^-1074, a coefficient of at most 2^j
takes a datum, below 2^2098, to at most 2^(j + 1024). -/
theorem f64Mul_coeff_le {c y : F64} {j : Nat} (hc : f64IsFinite c = true) (hm : f64Mag c ≤ 2 ^ j) (hj : j ≤ 1073)
    (hy : f64IsFinite y = true) :
    f64IsFinite (f64Mul c y) = true ∧ f64Mag (f64Mul c y) ≤ 2 ^ 52 * 2 ^ (j + 972) := by
  refine f64Mul_le hc hy le_rfl (by norm_num) (by omega) ?_
  have hprod : f64Mag c * f64Mag y ≤ 2 ^ j * 2 ^ 2098 := Nat.mul_le_mul hm (f64Mag_lt hy).le
  have hexp : 2 ^ 52 * 2 ^ (j + 972) * 2 ^ 1074 = 2 ^ j * 2 ^ 2098 := by
    rw [← pow_add]
    exact two_pow_mul_congr (by omega)
  exact hprod.trans_eq hexp.symm

/-- The coefficients of R140 are finite, and below 1/2, 1/2, 1/4 and 1/64. -/
theorem bhA0_le : f64IsFinite bhA0 = true ∧ f64Mag bhA0 ≤ 2 ^ 1073 := by decide +kernel
theorem bhA1_le : f64IsFinite bhA1 = true ∧ f64Mag bhA1 ≤ 2 ^ 1073 := by decide +kernel
theorem bhA2_le : f64IsFinite bhA2 = true ∧ f64Mag bhA2 ≤ 2 ^ 1072 := by decide +kernel
theorem bhA3_le : f64IsFinite bhA3 = true ∧ f64Mag bhA3 ≤ 2 ^ 1068 := by decide +kernel

/-- Finite, and at most `q` units in the last place of the largest binade. -/
def Below (q : Nat) (x : F64) : Prop := f64IsFinite x = true ∧ f64Mag x ≤ q * 2 ^ 2045

section
variable {a b : F64} {q r : Nat}

theorem Below.sum (op : NumOp) (ha : Below q a) (hb : Below r b) (hq : 2 ^ 52 ≤ q + r) (hq' : q + r < 2 ^ 53) :
    Below (q + r) (f64Sum op a b) := by
  refine f64Sum_le op ha.1 hb.1 hq hq' le_rfl ?_
  rw [Nat.add_mul]
  exact Nat.add_le_add ha.2 hb.2

theorem Below.add (ha : Below q a) (hb : Below r b) (hq : 2 ^ 52 ≤ q + r) (hq' : q + r < 2 ^ 53) :
    Below (q + r) (f64Add a b) := by
  unfold f64Add
  exact ha.sum .add hb hq hq'

theorem Below.flip (ha : Below q a) : Below q (f64Flip a) :=
  ⟨(f64IsFinite_flip a).trans ha.1, (f64Mag_flip a).trans_le ha.2⟩

theorem Below.sub (ha : Below q a) (hb : Below r b) (hq : 2 ^ 52 ≤ q + r) (hq' : q + r < 2 ^ 53) :
    Below (q + r) (f64Sub a b) := by
  unfold f64Sub
  exact ha.sum .sub hb.flip hq hq'

end

theorem below_bhA0 : Below 1 bhA0 := by
  refine ⟨bhA0_le.1, bhA0_le.2.trans ?_⟩
  rw [Nat.one_mul]
  exact Nat.pow_le_pow_right Nat.two_pos (by norm_num)

/-- A weighted cosine is as far below the largest binade's end as its coefficient is below 1. -/
theorem Below.coeff {c y : F64} {i j : Nat} (hc : f64IsFinite c = true ∧ f64Mag c ≤ 2 ^ j) (hy : f64IsFinite y = true)
    (hi : i ≤ 52) (hij : j + 52 = i + 1073) : Below (2 ^ i) (f64Mul c y) := by
  obtain ⟨hfin, hmag⟩ := f64Mul_coeff_le hc.1 hc.2 (by omega) hy
  exact ⟨hfin, hmag.trans_eq (two_pow_mul_congr (by omega))⟩

/-- The four terms add up to less than the largest binade holds: 1 + 2^52 + 2^51 + 2^47 of its 2^53 units. -/
theorem f64IsFinite_cosineSum {c₁ c₂ c₃ : F64} (h₁ : f64IsFinite c₁ = true) (h₂ : f64IsFinite c₂ = true)
    (h₃ : f64IsFinite c₃ = true) :
    f64IsFinite (f64Sub (f64Add (f64Sub bhA0 (f64Mul bhA1 c₁)) (f64Mul bhA2 c₂)) (f64Mul bhA3 c₃)) = true := by
  have b₁ : Below (2 ^ 52) (f64Mul bhA1 c₁) := Below.coeff bhA1_le h₁ (by norm_num) (by norm_num)
  have b₂ : Below (2 ^ 51) (f64Mul bhA2 c₂) := Below.coeff bhA2_le h₂ (by norm_num) (by norm_num)
  have b₃ : Below (2 ^ 47) (f64Mul bhA3 c₃) := Below.coeff bhA3_le h₃ (by norm_num) (by norm_num)
  have s₁ := below_bhA0.sub b₁ (by norm_num) (by norm_num)
  have s₂ := s₁.add b₂ (by norm_num) (by norm_num)
  exact (s₂.sub b₃ (by norm_num) (by norm_num)).1

/-- With finite cosines the window is finite (R140). -/
theorem f64IsFinite_bh {N : Numerics} (h1 : N.P1) (ht : N.FiniteTrig) (n L : Nat) : f64IsFinite (bh N n L) = true := by
  simp only [bh, h1.add, h1.sub, h1.mul]
  exact f64IsFinite_cosineSum (ht _).2 (ht _).2 (ht _).2

/-! ## Arrays of zeros -/

/-- Every entry is +0.0 or -0.0. -/
def AllZero (l : List F64) : Prop := ∀ v ∈ l, f64IsZero v = true

/-- Both scratch arrays hold zeros. -/
def Scratch.Zeros (x : Scratch) : Prop := AllZero x.re ∧ AllZero x.im

theorem AllZero.getD {l : List F64} (h : AllZero l) (i : Nat) : f64IsZero (l.getD i 0) = true := by
  rw [List.getD_eq_getElem?_getD]
  cases hi : l[i]? with
  | none => decide
  | some v => exact h v (List.mem_of_getElem? hi)

theorem AllZero.set {l : List F64} (h : AllZero l) (i : Nat) {v : F64} (hv : f64IsZero v = true) :
    AllZero (l.set i v) := fun u hu =>
  (List.mem_or_eq_of_mem_set hu).elim (h u) fun e => e ▸ hv

theorem AllZero.swapAt {l : List F64} (h : AllZero l) (i j : Nat) : AllZero (swapAt l i j) :=
  (h.set i (h.getD j)).set j (h.getD i)

/-! ## The transform keeps zeros (R144 to R146) -/

theorem Scratch.Zeros.permute {x : Scratch} (h : x.Zeros) (b : Nat) : (permute b x).Zeros := by
  unfold Machine.permute
  refine List.foldlRecOn _ _ h fun y hy i _ => ?_
  split_ifs
  · exact ⟨hy.1.swapAt _ _, hy.2.swapAt _ _⟩
  · exact hy

theorem f64IsZero_sub {a b : F64} (ha : f64IsZero a = true) (hb : f64IsZero b = true) :
    f64IsZero (f64Sub a b) = true :=
  f64IsZero_sum .sub ha ((f64IsZero_flip b).trans hb)

theorem f64IsZero_add {a b : F64} (ha : f64IsZero a = true) (hb : f64IsZero b = true) :
    f64IsZero (f64Add a b) = true :=
  f64IsZero_sum .add ha hb

/-- The twiddle factor is finite, so its products with zeros are zeros, and so are the four sums. -/
theorem Scratch.Zeros.butterfly {N : Numerics} (h1 : N.P1) (ht : N.FiniteTrig) {x : Scratch} (h : x.Zeros) (ang : F64)
    (half i k : Nat) : (butterfly N ang half i k x).Zeros := by
  obtain ⟨hre, him⟩ := h
  obtain ⟨hs, hc⟩ := ht (twiddleAngle N ang k)
  have ztr := f64IsZero_sub (f64IsZero_mul (hre.getD (i + k + half)) hc) (f64IsZero_mul (him.getD (i + k + half)) hs)
  have zti := f64IsZero_add (f64IsZero_mul (hre.getD (i + k + half)) hs) (f64IsZero_mul (him.getD (i + k + half)) hc)
  simp only [Machine.butterfly, h1.add, h1.sub, h1.mul]
  exact ⟨(hre.set _ (f64IsZero_sub (hre.getD _) ztr)).set _ (f64IsZero_add (hre.getD _) ztr),
    (him.set _ (f64IsZero_sub (him.getD _) zti)).set _ (f64IsZero_add (him.getD _) zti)⟩

theorem Scratch.Zeros.stage {N : Numerics} (h1 : N.P1) (ht : N.FiniteTrig) {x : Scratch} (h : x.Zeros) (b t : Nat) :
    (stage N b t x).Zeros :=
  List.foldlRecOn _ _ h fun _ hy _ _ => List.foldlRecOn _ _ hy fun _ hz _ _ => hz.butterfly h1 ht _ _ _ _

theorem Scratch.Zeros.transform {N : Numerics} (h1 : N.P1) (ht : N.FiniteTrig) {x : Scratch} (h : x.Zeros) (b : Nat) :
    (transform N b x).Zeros :=
  List.foldlRecOn _ _ (h.permute b) fun _ hy t _ => hy.stage h1 ht b t

/-- A frame of zeros is zero after the window (R143). -/
theorem windowed_zeros {N : Numerics} (h1 : N.P1) (ht : N.FiniteTrig) {m : Memory} {n : Nat}
    (hm : ∀ i, i < n → frameWord m (2 * i) = 0 ∧ frameWord m (2 * i + 1) = 0) : (windowed N m n).Zeros := by
  have hz : f64IsZero (f64OfF32 0) = true := by decide +kernel
  constructor <;> intro v hv <;> obtain ⟨i, hi, rfl⟩ := List.mem_map.1 hv <;> rw [h1.mul]
  · rw [frameI, (hm i (List.mem_range.1 hi)).1]
    exact f64IsZero_mul hz (f64IsFinite_bh h1 ht i n)
  · rw [frameQ, (hm i (List.mem_range.1 hi)).2]
    exact f64IsZero_mul hz (f64IsFinite_bh h1 ht i n)

/-! ## The floor (R147 to R149) -/

theorem amplitude_zeros {N : Numerics} (h1 : N.P1) {x : Scratch} (h : x.Zeros) (k : Nat) : amplitude N x k = 0 := by
  simp only [amplitude, h1.add, h1.mul, h1.sqrt, f64Mul_self_zero (h.1.getD k), f64Mul_self_zero (h.2.getD k)]
  decide +kernel

/-- A zero amplitude is floored. -/
theorem decibel_zero {N : Numerics} (h1 : N.P1) : decibel N 0 = f64Mul dbScale (N.log10 ampFloor) := by
  rw [decibel, h1.mul, if_pos (by decide)]

/-- A dB value that is stored as -200. -/
def NarrowsToFloor (v : F64) : Prop := f64IsNaN v = false ∧ f64ToF32 v = 0xC3480000

theorem floor_below : NarrowsToFloor (f64Mul dbScale 0xC023FFFFFFFFFFFF) := by unfold NarrowsToFloor; decide +kernel
theorem floor_ten : NarrowsToFloor (f64Mul dbScale 0xC024000000000000) := by unfold NarrowsToFloor; decide +kernel
theorem floor_above : NarrowsToFloor (f64Mul dbScale 0xC024000000000001) := by unfold NarrowsToFloor; decide +kernel

/-- Twenty times each of the three values P3 allows narrows to -200. -/
theorem narrowsToFloor_log10 {N : Numerics} (h3 : N.P3) : NarrowsToFloor (f64Mul dbScale (N.log10 ampFloor)) := by
  have hmem : N.log10 ampFloor ∈ ([0xC023FFFFFFFFFFFF, 0xC024000000000000, 0xC024000000000001] : List F64) := h3
  simp only [List.mem_cons, List.not_mem_nil, or_false] at hmem
  rcases hmem with e | e | e <;> rw [e]
  · exact floor_below
  · exact floor_ten
  · exact floor_above

theorem specWord_floor {N : Numerics} (h1 : N.P1) (h3 : N.P3) (draw : Nat) :
    specWord N draw (decibel N 0) = 0xC3480000 := by
  obtain ⟨hnan, hval⟩ := narrowsToFloor_log10 h3
  rw [specWord, decibel_zero h1, hnan, h1.toF32, if_neg Bool.false_ne_true, hval]

/-- Every stored word is the narrowing of some bin's dB value. -/
theorem mem_specWords {N : Numerics} {draw : Nat} {db : List F64} {w : F32} (h : w ∈ specWords N draw db) :
    ∃ d, ∃ v ∈ db, w = specWord N d v := by
  obtain ⟨i, hi, rfl⟩ := List.mem_map.1 h
  refine ⟨draw + i, db.getD i 0, ?_, rfl⟩
  rw [List.getD_eq_getElem _ _ (List.mem_range.1 hi)]
  exact List.getElem_mem _

/-- Settles O33: the windowed frame is zero, the transform keeps it zero, so every bin's amplitude is +0.0 and floored. -/
theorem allZeroFrameGivesTheFloor : Obligations.AllZeroFrameGivesTheFloor := by
  intro N b draw m h1 h3 ht hm w hw
  obtain ⟨d, v, hv, rfl⟩ := mem_specWords hw
  obtain ⟨i, -, rfl⟩ := List.mem_map.1 hv
  have hz : (transform N b (windowed N m (2 ^ b))).Zeros := (windowed_zeros h1 ht hm).transform h1 ht b
  rw [amplitude_zeros h1 hz]
  exact specWord_floor h1 h3 d

end Sys2Proof.Machine
end

section
/-! PROOFS. What a command step can end in, said once (R250, R282): the rule's completion, an error's completion, or the
reset of SOFT_RESET, and how the completions read as states. -/

namespace Sys2Proof.Machine

/-! ## The ends of a command -/

/-- A command other than SOFT_RESET completes the state its rule gives, or the state it found with the error. -/
theorem exec_ok {i : Instr} {s u : State} (hr : i ≠ .softReset) (h : commandBody i s = .ok u) :
    exec i s = .next (u.complete none s.stTuple) := by
  rw [exec_eq_runCommand s hr, runCommand_ok h]

theorem exec_error {i : Instr} {s : State} {e : CmdError} (hr : i ≠ .softReset) (h : commandBody i s = .error e) :
    exec i s = .next (s.raiseError e) := by
  rw [exec_eq_runCommand s hr, runCommand_error h]

/-- The three ends of a command. -/
theorem exec_cases (i : Instr) (s : State) :
    (i = .softReset ∧ exec i s = .next ((s.resetRegisters.setResult 0).complete none s.resetRegisters.stTuple)) ∨
      i ≠ .softReset ∧
        ((∃ u, commandBody i s = .ok u ∧ exec i s = .next (u.complete none s.stTuple)) ∨
          ∃ e, commandBody i s = .error e ∧ exec i s = .next (s.raiseError e)) := by
  by_cases hr : i = .softReset
  · exact .inl ⟨hr, by rw [hr]; rfl⟩
  · refine .inr ⟨hr, ?_⟩
    cases h : commandBody i s with
    | ok u => exact .inl ⟨u, rfl, exec_ok hr h⟩
    | error e => exact .inr ⟨e, rfl, exec_error hr h⟩

/-- The three turns of the engine: idle, an illegal word, and a command (R121, R250). -/
theorem engineTurn_cases (s : State) :
    (s.status.busy = false ∧ engineTurn s = .next s) ∨
      s.status.busy = true ∧
        ((∃ e, decode s.params.numRx s.cmd = .error e ∧ engineTurn s = .next (s.raiseError e)) ∨
          ∃ i, decode s.params.numRx s.cmd = .ok i ∧ engineTurn s = exec i s) := by
  unfold engineTurn engineStep fetchCommand
  cases s.status.busy with
  | false => exact .inl ⟨rfl, rfl⟩
  | true =>
    refine .inr ⟨rfl, ?_⟩
    cases decode s.params.numRx s.cmd with
    | error e => exact .inl ⟨e, rfl, rfl⟩
    | ok i => exact .inr ⟨i, rfl, rfl⟩

/-! ## The completions as states (R250, R282, R289) -/

/-- IP after a failure: CMD_DONE and CMD_ERR are set. -/
theorem completeIp_error (e : CmdError) (ip : BitVec 10) : completeIp (some e) false ip = ip ||| 0x101#10 := by
  show (ip ||| 0x100#10) ||| 0x001#10 = ip ||| 0x101#10
  rw [BitVec.or_assoc]
  rfl

/-- IP after a success: CMD_DONE is set, and STATE_CHANGE on a move. -/
theorem completeIp_none (moved : Bool) (ip : BitVec 10) :
    completeIp none moved ip = ip ||| (if moved then 0x201#10 else 0x001#10) := by
  cases moved with
  | false => rfl
  | true =>
    show (ip ||| 0x200#10) ||| 0x001#10 = ip ||| 0x201#10
    rw [BitVec.or_assoc]
    rfl

/-- The error completion of R282 as the state the statements name. -/
theorem raiseError_eq_failedWith (e : CmdError) (s : State) :
    s.raiseError e = s.failedWith (errCode e) (errDetail e) := by
  have hip : completeIp (some e) (s.stTuple != s.stTuple) s.ip = s.ip ||| 0x101#10 := by
    rw [bne_self_eq_false, completeIp_error]
  unfold State.raiseError State.complete State.failedWith
  rw [hip]
  rfl

/-- The completion of R250 without an error as the state the statements name. -/
theorem complete_none_eq_succeeded (st0 : Bool × List RxSt) (t : State) :
    t.complete none st0 = t.succeeded (t.stTuple != st0) := by
  unfold State.complete State.succeeded
  rw [completeIp_none]
  rfl

end Sys2Proof.Machine
end


section
/-! PROOFS. Every slot stays sound (R55 to R57, R59, R62, R70 to R72): what each command does to one slot, what the pairs
of a frame do to it, and the step over all slots. -/

namespace Sys2Proof.Machine

/-! ## One slot under the operations of the commands -/

/-- A slot whose registers are at their reset values is sound, whatever its hidden state (R62, R75). -/
theorem RxSlot.inv_of_reset {p : Params} {x : RxSlot} (h : x.regs = RxRegs.reset) : x.Inv p where
  empty := fun _ => h
  phase := fun hne => absurd (congrArg RxRegs.st h) hne
  nTaps := fun hne => absurd (congrArg RxRegs.st h) hne
  fill := by rw [h]; exact Nat.zero_le _
  live := fun hl => by rw [h] at hl; rcases hl with hl | hl <;> cases hl

/-- RX_DECIM holds its computed value whole, so it is at least 1 (R191). -/
theorem toNat_decim {q : F64} (h : f64Lt q f64TwoPow32 = true) :
    (BitVec.ofNat 32 (max 1 (floorNat q))).toNat = max 1 (floorNat q) := by
  have := floorNat_lt h
  rw [BitVec.toNat_ofNat, Nat.mod_eq_of_lt (by omega)]

/-- A usable offset is finite (R191). -/
theorem f64IsFinite_of_offsetOk {off prate : F64} (h : offsetOk off prate = true) : f64IsFinite off = true := by
  simp only [offsetOk, Bool.and_eq_true] at h
  exact h.1

/-- Under P1 the phase increment of a usable offset is no NaN (R16, R193). -/
theorem f64IsNaN_phaseInc_of_P1 {N : Numerics} (h1 : N.P1) {off prate : F64} (ho : offsetOk off prate = true)
    (hr : f64FinitePos prate = true) : f64IsNaN (phaseInc N off prate) = false := by
  rw [phaseInc_eq_num64 h1.mul h1.div]
  exact f64IsNaN_phaseInc (f64IsFinite_of_offsetOk ho) hr

/-- A configure makes any slot with a sound ring a sound CONFIGURED one: the designer has checked the tap count (R170,
R191). -/
theorem RxSlot.inv_of_configure {p : Params} {pcf prate : F64} {x y : RxSlot} (hr : f64FinitePos prate = true)
    (hf : x.regs.fill.toNat ≤ p.audioDepth) (h : configure p.num.record p.maxTaps pcf prate x = .ok y) : y.Inv p := by
  obtain ⟨hoff, hq, taps, hd, rfl⟩ := configure_ok_iff.1 h
  have hdec := toNat_decim hq
  have hlen := design_length hd
  obtain ⟨hodd, h3, hmax, -⟩ := design_ok_iff.1 hd
  have hlive : RxSlot.LiveInv p.num.record (configured p.num.record pcf prate (p.num.record.sub x.regs.cf pcf)
      (p.num.record.div prate x.regs.outRate) (p.num.record.div (p.num.record.div x.regs.bw f64Two) prate) taps x) :=
    { decim := by rw [configured, hdec]; exact Nat.le_max_left _ _
      dcnt := by rw [configured, hdec]; exact lt_of_lt_of_le Nat.one_pos (Nat.le_max_left _ _)
      taps := hlen
      dlI := List.length_replicate
      dlQ := List.length_replicate
      dlW := by show 0 < x.regs.nTaps.toNat; omega
      prate := hr
      pinc := fun h1 => f64IsNaN_phaseInc_of_P1 h1 hoff hr }
  exact
    { empty := fun he => nomatch he
      phase := fun _ => .inl zero_inPhaseRange
      nTaps := fun _ => ⟨hodd, h3, hmax⟩
      fill := hf
      live := fun _ => hlive }

/-- A slot left UNCONFIGURED by a failed configure stays sound (R192). -/
theorem RxSlot.Inv.implicitFail {p : Params} {x : RxSlot} (h : x.Inv p) (hne : x.regs.st ≠ .empty) :
    (implicitFail x).Inv p where
  empty := fun he => nomatch he
  phase := fun _ => h.phase hne
  nTaps := fun _ => h.nTaps hne
  fill := h.fill
  live := fun hl => by rcases hl with hl | hl <;> cases hl

/-- STOP_RX keeps a CONFIGURED or STOPPED slot sound (R202). -/
theorem RxSlot.Inv.stopped {p : Params} {x : RxSlot} (h : x.Inv p)
    (hl : x.regs.st = .configured ∨ x.regs.st = .stopped) :
    RxSlot.Inv p { x with regs := { x.regs with st := .stopped } } := by
  have hne : x.regs.st ≠ .empty := by rcases hl with e | e <;> rw [e] <;> decide
  exact
    { empty := fun he => nomatch he
      phase := fun _ => h.phase hne
      nTaps := fun _ => h.nTaps hne
      fill := h.fill
      live := fun _ => { h.live hl with } }

/-- RETUNE_RX keeps a receiver sound: the phase is 0, and the increment of a configured one is that of a usable offset
(R201). -/
theorem RxSlot.Inv.retuned {p : Params} {x : RxSlot} {cf : F64} (h : x.Inv p) (hne : x.regs.st ≠ .empty)
    (ho : x.regs.st = .unconfigured ∨ offsetOk (p.num.record.sub cf x.regs.pcf) x.regs.prate = true) :
    (retuned p.num.record cf x).Inv p where
  empty := fun he => absurd he hne
  phase := fun _ => .inl zero_inPhaseRange
  nTaps := fun _ => h.nTaps hne
  fill := h.fill
  live := fun hl => by
    have hx := h.live hl
    have hu : x.regs.st ≠ .unconfigured := by
      have hl' : x.regs.st = .configured ∨ x.regs.st = .stopped := hl
      rcases hl' with e | e <;> rw [e] <;> decide
    refine { hx with pinc := fun h1 => ?_ }
    show f64IsNaN (if x.regs.st = .unconfigured then x.regs.pinc else phaseInc _ _ _) = false
    rw [if_neg hu]
    exact f64IsNaN_phaseInc_of_P1 h1 (ho.resolve_left hu) hx.prate

/-- What the checks of ADD_RX leave: an odd tap count in range, and the mode of A_MODE (R255). -/
theorem of_addChecks {p : Params} {a : ArgRegs} {m : Mode} (h : addChecks p a = .ok m) :
    (addTapCount p a % 2 = 1 ∧ 3 ≤ addTapCount p a ∧ addTapCount p a ≤ p.maxTaps) ∧ modeOf a.mode = some m := by
  unfold addChecks at h
  cases hm : modeOf a.mode with
  | none => simp only [hm] at h; split_ifs at h
  | some m' =>
    simp only [hm] at h
    split_ifs at h
    obtain rfl := Except.ok.inj h
    exact ⟨by omega, rfl⟩

/-- The receiver ADD_RX makes, before a configure, is sound (R255). -/
theorem RxSlot.inv_newSlot {p : Params} (hp : p.Valid) {a : ArgRegs} {m : Mode} (h : addChecks p a = .ok m)
    (hd : RxHidden) : (newSlot p a m hd).Inv p where
  empty := fun he => nomatch he
  phase := fun _ => .inl zero_inPhaseRange
  nTaps := fun _ => by
    show (BitVec.ofNat 32 (addTapCount p a)).toNat % 2 = 1 ∧ 3 ≤ (BitVec.ofNat 32 (addTapCount p a)).toNat ∧
      (BitVec.ofNat 32 (addTapCount p a)).toNat ≤ p.maxTaps
    have hT := (of_addChecks h).1
    have hmax := hp.maxTaps
    have hcount : (BitVec.ofNat 32 (addTapCount p a)).toNat = addTapCount p a := by
      rw [BitVec.toNat_ofNat]
      exact Nat.mod_eq_of_lt (by omega)
    rwa [hcount]
  fill := by
    show ((0 : Word) - 0).toNat ≤ p.audioDepth
    exact Nat.zero_le _
  live := fun hl => by rcases hl with hl | hl <;> cases hl

/-- The host's write of the read pointer keeps a slot sound: it is kept only when the ring stays within its depth, and
never on an EMPTY slot (R59, R62). -/
theorem RxSlot.Inv.rptr {p : Params} {x : RxSlot} {v : Word} (h : x.Inv p)
    (hk : rptrKept p.audioDepth x.regs v = true) :
    RxSlot.Inv p { x with regs := { x.regs with audRptr := v } } := by
  simp only [rptrKept, Bool.and_eq_true, decide_eq_true_eq] at hk
  obtain ⟨hne, hfill⟩ := hk
  exact
    { empty := fun he => absurd he hne
      phase := fun _ => h.phase hne
      nTaps := fun _ => h.nTaps hne
      fill := hfill
      live := fun hl => { h.live hl with } }

/-! ## One slot under the pairs of a frame -/

/-- AUDIO_DEPTH fits a word (R6). -/
theorem audioDepth_le {p : Params} (hp : p.Valid) : p.audioDepth ≤ 2 ^ 16 := by
  obtain ⟨k, hk, he⟩ := hp.audioDepth
  rw [he]
  exact Nat.pow_le_pow_right (by norm_num) hk

/-- The slot a pipeline works on: sound and CONFIGURED. -/
def Running (p : Params) (x : RxSlot) : Prop := x.Inv p ∧ x.regs.st = .configured

theorem Running.live {p : Params} {x : RxSlot} (h : Running p x) : x.LiveInv p.num.record := h.1.live (.inl h.2)

theorem Running.ne_empty {p : Params} {x : RxSlot} (h : Running p x) : x.regs.st ≠ .empty := by rw [h.2]; decide

/-- The counters, the ring and the history of a CONFIGURED slot are free, but for the fill level (R57 to R59, R73). -/
theorem Running.counters {p : Params} {x : RxSlot} (h : Running p x) (nf wp dr : Word) (ip qp : F64)
    (hf : (wp - x.regs.audRptr).toNat ≤ p.audioDepth) :
    Running p ⟨{ x.regs with numFault := nf, audWptr := wp, audDrop := dr },
      { x.hidden with iPrev := ip, qPrev := qp }⟩ := by
  have hinv : RxSlot.Inv p ⟨{ x.regs with numFault := nf, audWptr := wp, audDrop := dr },
      { x.hidden with iPrev := ip, qPrev := qp }⟩ :=
    { empty := fun he => absurd he h.ne_empty
      phase := fun _ => h.1.phase h.ne_empty
      nTaps := fun _ => h.1.nTaps h.ne_empty
      fill := hf
      live := fun _ => { h.live with } }
  exact ⟨hinv, h.2⟩

/-- An advance leaves the phase in range, or a NaN when the record has not NUM64's basic operations (R56, R194). -/
theorem phase_advance {N : Numerics} {p d : F64} (hp : inPhaseRange p = true ∨ ¬ N.P1 ∧ f64IsNaN p = true)
    (hd : N.P1 → f64IsNaN d = false) :
    inPhaseRange (wrapPhase N (N.add p d)) = true ∨ ¬ N.P1 ∧ f64IsNaN (wrapPhase N (N.add p d)) = true := by
  by_cases h1 : N.P1
  · have hr : inPhaseRange p = true := hp.resolve_right fun h => h.1 h1
    rw [wrapPhase_eq_num64 h1.add h1.sub, h1.add]
    exact .inl (inPhaseRange_advance hr (hd h1))
  · rcases wrapPhase_cases N (N.add p d) with ⟨-, h | h⟩ | ⟨-, -, h⟩
    · exact .inr ⟨h1, h⟩
    · exact .inl h
    · exact .inl h

/-- An input pair keeps a running slot sound up to its output: the phase is wrapped, RX_DCNT stays below RX_DECIM and
the delay lines keep their length (R194 to R197). -/
theorem Running.advance {p : Params} {x : RxSlot} (h : Running p x) (i q : F64) :
    Running p (advance p.num.record i q x) := by
  have hl := h.live
  have hT : 0 < x.regs.nTaps.toNat := lt_of_le_of_lt (Nat.zero_le _) hl.dlW
  have hdcnt : (Machine.advance p.num.record i q x).regs.dcnt.toNat < x.regs.decim.toNat := by
    have hlt := hl.dcnt
    simp only [Machine.advance]
    split_ifs with hdue
    · exact hl.decim
    · bv_omega
  have hlive : (Machine.advance p.num.record i q x).LiveInv p.num.record :=
    { decim := hl.decim
      dcnt := hdcnt
      taps := hl.taps
      dlI := List.length_set.trans hl.dlI
      dlQ := List.length_set.trans hl.dlQ
      dlW := Nat.mod_lt _ hT
      prate := hl.prate
      pinc := hl.pinc }
  have hinv : (Machine.advance p.num.record i q x).Inv p :=
    { empty := fun he => absurd he h.ne_empty
      phase := fun _ => phase_advance (h.1.phase h.ne_empty) hl.pinc
      nTaps := fun _ => h.1.nTaps h.ne_empty
      fill := h.1.fill
      live := fun _ => hlive }
  exact ⟨hinv, h.2⟩

/-- A push keeps the ring within its depth: a full ring drops the sample (R239). -/
theorem fill_ringPush {depth k : Nat} {v : F32} {c : Pipe} (hd : depth < 2 ^ 32)
    (h : c.slot.regs.fill.toNat ≤ depth) : (ringPush depth k v c).slot.regs.fill.toNat ≤ depth := by
  rcases ringPush_cases depth k v c with ⟨-, e⟩ | ⟨hne, e⟩ <;> rw [e]
  · exact h
  · have hlt : c.slot.regs.fill.toNat ≠ depth := fun he => hne (by
      apply BitVec.eq_of_toNat_eq
      rw [BitVec.toNat_ofNat, Nat.mod_eq_of_lt hd, he])
    simp only [RxRegs.fill] at h hlt ⊢
    bv_omega

/-- So does the emission of a sample: the guard touches neither pointer (R238). -/
theorem fill_emit {N : Numerics} {depth k : Nat} {y : F64} {c : Pipe} (hd : depth < 2 ^ 32)
    (h : c.slot.regs.fill.toNat ≤ depth) : (emit N depth k y c).slot.regs.fill.toNat ≤ depth := by
  rw [emit_eq]
  refine fill_ringPush hd ?_
  unfold guarded
  split_ifs <;> exact h

/-- Every emission leaves a running slot running. -/
theorem Running.emit {p : Params} (hp : p.Valid) {N : Numerics} {k : Nat} {y : F64} {c : Pipe}
    (h : Running p c.slot) : Running p (emit N p.audioDepth k y c).slot := by
  have hd : p.audioDepth < 2 ^ 32 := lt_of_le_of_lt (audioDepth_le hp) (by norm_num)
  have hf : (Machine.emit N p.audioDepth k y c).slot.regs.fill.toNat ≤ p.audioDepth := fill_emit hd h.1.fill
  obtain ⟨hhid, hregs, -⟩ := emits_emit N p.audioDepth k y c
  have hrptr : (Machine.emit N p.audioDepth k y c).slot.regs.audRptr = c.slot.regs.audRptr :=
    (congrArg RxRegs.audRptr hregs :)
  have hslot : (Machine.emit N p.audioDepth k y c).slot = ⟨_, _⟩ := congrArg₂ RxSlot.mk hregs hhid
  rw [hslot]
  refine h.counters _ _ _ c.slot.hidden.iPrev c.slot.hidden.qPrev ?_
  rwa [RxRegs.fill, hrptr] at hf

/-- One pair leaves a running slot running (R199 step 4). -/
theorem Running.iqPair {p : Params} (hp : p.Valid) {k j : Nat} {c : Pipe} (h : Running p c.slot) :
    Running p (iqPair p.num.record p.audioDepth k c j).slot := by
  have hadv := h.advance (frameI c.mem j) (frameQ c.mem j)
  cases hdue : c.slot.regs.outputDue with
  | false => rw [iqPair_not_due hdue]; exact hadv
  | true =>
    rw [iqPair_due hdue]
    exact Running.emit hp (hadv.counters _ _ _ _ _ hadv.1.fill)

theorem Running.iqLoop {p : Params} (hp : p.Valid) {k n : Nat} {c : Pipe} (h : Running p c.slot) :
    Running p (iqLoop p.num.record p.audioDepth k n c).slot :=
  iqLoop_induct (fun d => Running p d.slot) h fun _ _ hd => hd.iqPair hp

/-- RX_FRAMES and RX_LAST_NOUT are free (R60). -/
theorem RxSlot.Inv.frameCounters {p : Params} {x : RxSlot} (h : x.Inv p) (hne : x.regs.st ≠ .empty) (f n : Word) :
    RxSlot.Inv p { x with regs := { x.regs with frames := f, lastNout := n } } where
  empty := fun he => absurd he hne
  phase := fun _ => h.phase hne
  nTaps := fun _ => h.nTaps hne
  fill := h.fill
  live := fun hl => { h.live hl with }

/-- A frame keeps a receiver sound, and a receiver (R199, R257). -/
theorem inv_processIQ {p : Params} (hp : p.Valid) {fr : FrameRegs} (hr : f64FinitePos fr.rate = true) (k : Nat)
    {x : RxSlot} (m : Memory) (ip : BitVec 10) (h : x.Inv p) (hne : x.regs.st ≠ .empty) :
    (processIQ p.num.record p fr k x m ip).slot.Inv p ∧
      (processIQ p.num.record p fr k x m ip).slot.regs.st ≠ .empty := by
  have hc : (counted x).Inv p := h.frameCounters hne _ _
  have loop {z : RxSlot} (hz : Running p z) :
      (iqLoop p.num.record p.audioDepth k fr.nPairs.toNat ⟨z, m, ip, 0⟩).slot.Inv p ∧
        (iqLoop p.num.record p.audioDepth k fr.nPairs.toNat ⟨z, m, ip, 0⟩).slot.regs.st ≠ .empty :=
    ⟨(Running.iqLoop hp hz).1, (Running.iqLoop hp hz).ne_empty⟩
  rcases processIQ_cases p.num.record p fr k x m ip with
    ⟨-, e⟩ | ⟨hns, ⟨_, -, -, e⟩ | ⟨z, -, hz, e⟩ | ⟨hnd, e⟩⟩ <;> rw [e]
  · exact ⟨h, hne⟩
  · exact ⟨hc.implicitFail hne, RxSt.noConfusion⟩
  · exact loop ⟨RxSlot.inv_of_configure hr hc.fill hz, (configured_sameReceiver hz).2.1⟩
  · refine loop ⟨hc, ?_⟩
    have hst : x.regs.st ≠ .unconfigured := fun hu => by
      simp [RxRegs.drifted, counted, hu] at hnd
    show x.regs.st = .configured
    cases hx : x.regs.st <;> simp_all

/-- The fan-out keeps every slot sound. -/
theorem inv_fanOut {p : Params} (hp : p.Valid) {fr : FrameRegs} (hr : f64FinitePos fr.rate = true) {xs : List RxSlot}
    (h : ∀ x ∈ xs, x.Inv p) (k : Nat) (m : Memory) (ip : BitVec 10) :
    ∀ y ∈ (fanOut p.num.record p fr k xs m ip).1, y.Inv p := by
  refine fanOut_forall (RxSlot.Inv p) (RxSlot.Inv p) (fun x hx _ => hx) (fun x k m ip hx hne => ?_) xs k m ip h
  obtain ⟨hinv, hst⟩ := inv_processIQ hp hr k m ip hx hne
  exact hinv.frameCounters hst _ _

/-! ## The slots and the wideband parameters over a command -/

/-- What a step owes: the parameters are those it found, as many slots as it found, each sound, and usable wideband
parameters while connected. -/
structure KeepsSlots (s t : State) : Prop where
  params : t.params = s.params
  length : t.slots.length = s.slots.length
  slot : ∀ x ∈ t.slots, x.Inv s.params
  wideband : t.status.connected = true → f64FinitePos t.wbRate = true ∧ f64IsFinite t.wbCf = true

theorem KeepsSlots.slotInv {s t : State} (hs : s.SlotInv) (h : KeepsSlots s t) : t.SlotInv where
  params := h.params ▸ hs.params
  slots := by rw [h.length, h.params, hs.slots]
  slot := h.params ▸ h.slot
  wideband := h.wideband

/-- Two states agree on what soundness speaks of, but that the second may have disconnected. -/
structure SameSlots (s t : State) : Prop where
  params : t.params = s.params
  slots : t.slots = s.slots
  connected : t.status.connected = true → s.status.connected = true
  wbRate : t.wbRate = s.wbRate
  wbCf : t.wbCf = s.wbCf

theorem SameSlots.refl {s : State} : SameSlots s s := ⟨rfl, rfl, id, rfl, rfl⟩

theorem KeepsSlots.of_same {s t : State} (hs : s.SlotInv) (h : SameSlots s t) : KeepsSlots s t where
  params := h.params
  length := by rw [h.slots]
  slot := by rw [h.slots]; exact hs.slot
  wideband := fun hc => by rw [h.wbRate, h.wbCf]; exact hs.wideband (h.connected hc)

/-- A completion touches no slot (R250). -/
theorem KeepsSlots.complete {s t : State} (h : KeepsSlots s t) (e : Option CmdError) (st0 : Bool × List RxSt) :
    KeepsSlots s (t.complete e st0) := ⟨h.params, h.length, h.slot, h.wideband⟩

theorem KeepsSlots.setResult {s t : State} (h : KeepsSlots s t) (w : Word) : KeepsSlots s (t.setResult w) :=
  ⟨h.params, h.length, h.slot, h.wideband⟩

/-- A command that replaces one slot by a sound one keeps the slots sound. -/
theorem keepsSlots_setSlot {s : State} (hs : s.SlotInv) {k : Nat} {y : RxSlot} (hy : y.Inv s.params) :
    KeepsSlots s (s.setSlot k y) where
  params := rfl
  length := List.length_set
  slot := fun _ hx => (List.mem_or_eq_of_mem_set hx).elim (hs.slot _) (· ▸ hy)
  wideband := hs.wideband

/-- The slot a command names is sound. -/
theorem State.SlotInv.get {s : State} (hs : s.SlotInv) {k : Nat} {x : RxSlot} (h : s.slots[k]? = some x) :
    x.Inv s.params := hs.slot x (List.mem_of_getElem? h)

/-- CONNECT configures every receiver against finite parameters it has checked, or leaves it UNCONFIGURED (R252). -/
theorem keepsSlots_connectBody {s t : State} (hs : s.SlotInv) (h : connectBody s.num s = .ok t) : KeepsSlots s t := by
  obtain ⟨hr, hcf, rfl⟩ := connectBody_ok_iff.1 h
  refine ⟨rfl, List.length_map _, fun y hy => ?_, fun _ => ⟨hr, hcf⟩⟩
  obtain ⟨x, hx, rfl⟩ := List.mem_map.1 hy
  have hi := hs.slot x hx
  unfold connectedSlot connectSlot
  split_ifs with he
  · exact hi
  · cases hc : configure s.num s.params.maxTaps s.args.cf s.args.rate x with
    | error e => exact hi.implicitFail he
    | ok y => exact RxSlot.inv_of_configure hr hi.fill hc

theorem keepsSlots_addRxBody {k : BitVec 8} {s t : State} (hs : s.SlotInv) (h : addRxBody s.num k s = .ok t) :
    KeepsSlots s t := by
  obtain ⟨x, m, y, -, -, hm, hy, rfl⟩ := addRxBody_ok_iff.1 h
  have hnew := RxSlot.inv_newSlot hs.params hm x.hidden
  refine (keepsSlots_setSlot hs ?_).setResult 1
  split_ifs at hy with hc
  · exact hy ▸ hnew
  · rw [Bool.not_eq_false] at hc
    exact RxSlot.inv_of_configure (hs.wideband hc).1 hnew.fill hy

theorem keepsSlots_removeRxBody {k : BitVec 8} {s t : State} (hs : s.SlotInv) (h : removeRxBody k s = .ok t) :
    KeepsSlots s t := by
  obtain ⟨x, -, ⟨-, rfl⟩ | ⟨-, rfl⟩⟩ := removeRxBody_ok_iff.1 h
  · exact KeepsSlots.of_same hs ⟨rfl, rfl, id, rfl, rfl⟩
  · obtain ⟨hp, hl, hsl, hw⟩ :=
      keepsSlots_setSlot (k := k.toNat) hs (RxSlot.inv_of_reset (x := clearedSlot s.drawCount) rfl)
    exact ⟨hp, hl, hsl, hw⟩

theorem keepsSlots_retuneRxBody {k : BitVec 8} {s t : State} (hs : s.SlotInv) (h : retuneRxBody s.num k s = .ok t) :
    KeepsSlots s t := by
  obtain ⟨x, hx, ⟨-, rfl⟩ | ⟨hne, -, ho, rfl⟩⟩ := retuneRxBody_ok_iff.1 h
  · exact KeepsSlots.of_same hs ⟨rfl, rfl, id, rfl, rfl⟩
  · exact (keepsSlots_setSlot hs ((hs.get hx).retuned hne ho)).setResult 1

theorem keepsSlots_stopRxBody {k : BitVec 8} {s t : State} (hs : s.SlotInv) (h : stopRxBody k s = .ok t) :
    KeepsSlots s t := by
  obtain ⟨x, hx, hst, rfl⟩ := stopRxBody_ok_iff.1 h
  exact (keepsSlots_setSlot hs ((hs.get hx).stopped hst)).setResult 0

theorem keepsSlots_configureRxBody {k : BitVec 8} {s t : State} (hs : s.SlotInv)
    (h : configureRxBody s.num k s = .ok t) : KeepsSlots s t := by
  obtain ⟨x, y, hx, -, hc, hy, rfl⟩ := configureRxBody_ok_iff.1 h
  exact (keepsSlots_setSlot hs (RxSlot.inv_of_configure (hs.wideband hc).1 (hs.get hx).fill hy)).setResult 1

/-- The throttle and the spectrum touch no slot (R142). -/
theorem sameSlots_throttleAndSpectrum (N : Numerics) (s : State) : SameSlots s (throttleAndSpectrum N s) := by
  rcases throttleAndSpectrum_cases N s with ⟨-, e⟩ | ⟨-, e⟩ <;> rw [e] <;> exact ⟨rfl, rfl, id, rfl, rfl⟩

theorem throttleAndSpectrum_frame (N : Numerics) (s : State) : (throttleAndSpectrum N s).frame = s.frame := by
  rcases throttleAndSpectrum_cases N s with ⟨-, e⟩ | ⟨-, e⟩ <;> rw [e] <;> rfl

/-- PUSH_FRAME makes the checked parameters of its frame the wideband ones, and processes every slot (R257). -/
theorem keepsSlots_pushFrameBody {s t : State} (hs : s.SlotInv) (h : pushFrameBody s.num s = .ok t) :
    KeepsSlots s t := by
  obtain ⟨-, -, hr, hcf, rfl⟩ := pushFrameBody_ok_iff.1 h
  refine KeepsSlots.setResult (t := fanOutStep _ _) ?_ _
  obtain ⟨hp, hsl, -, hwr, hwc⟩ := sameSlots_throttleAndSpectrum s.num (acceptFrame s)
  have hfr := throttleAndSpectrum_frame s.num (acceptFrame s)
  refine ⟨hp, ?_, ?_, fun _ => ?_⟩
  · rw [fanOutStep_slots, fanOut_length, hsl]; rfl
  · rw [fanOutStep_slots, hp, hsl, hfr]
    exact inv_fanOut hs.params hr hs.slot _ _ _
  · rw [fanOutStep_wbRate, fanOutStep_wbCf, hwr, hwc]
    exact ⟨hr, hcf⟩

/-- A register reset clears every slot and disconnects (R311). -/
theorem keepsSlots_resetRegisters {s : State} (hs : s.SlotInv) : KeepsSlots s s.resetRegisters where
  params := rfl
  length := by rw [resetRegisters_slots, List.length_map, List.length_range, hs.slots]
  slot := fun x hx => by
    obtain ⟨k, -, rfl⟩ := List.mem_map.1 hx
    exact RxSlot.inv_of_reset rfl
  wideband := fun hc => absurd hc Bool.false_ne_true

/-- Every command's rule, on success, leaves sound slots. -/
theorem keepsSlots_commandBody {i : Instr} {s t : State} (hs : s.SlotInv) (h : commandBody i s = .ok t) :
    KeepsSlots s t := by
  cases i with
  | nop => obtain rfl := Except.ok.inj h; exact KeepsSlots.of_same hs ⟨rfl, rfl, id, rfl, rfl⟩
  | connect => exact keepsSlots_connectBody hs h
  | disconnect =>
    obtain rfl := Except.ok.inj h
    exact KeepsSlots.of_same hs ⟨rfl, rfl, fun hc => absurd hc Bool.false_ne_true, rfl, rfl⟩
  | setFft => obtain ⟨-, -, -, rfl⟩ := setFftBody_ok_iff.1 h; exact KeepsSlots.of_same hs ⟨rfl, rfl, id, rfl, rfl⟩
  | softReset => obtain rfl := Except.ok.inj h; exact (keepsSlots_resetRegisters hs).setResult 0
  | addRx k => exact keepsSlots_addRxBody hs h
  | removeRx k => exact keepsSlots_removeRxBody hs h
  | retuneRx k => exact keepsSlots_retuneRxBody hs h
  | stopRx k => exact keepsSlots_stopRxBody hs h
  | configureRx k => exact keepsSlots_configureRxBody hs h
  | readTaps k => obtain ⟨-, -, -, rfl⟩ := readTapsBody_ok_iff.1 h; exact KeepsSlots.of_same hs ⟨rfl, rfl, id, rfl, rfl⟩
  | pushFrame => exact keepsSlots_pushFrameBody hs h
  | designFir => obtain ⟨-, -, rfl⟩ := designFirBody_ok_iff.1 h; exact KeepsSlots.of_same hs ⟨rfl, rfl, id, rfl, rfl⟩

theorem keepsSlots_exec {i : Instr} {s t : State} (hs : s.SlotInv) (h : exec i s = .next t) : KeepsSlots s t := by
  rcases exec_cases i s with ⟨-, e⟩ | ⟨-, ⟨u, hu, e⟩ | ⟨err, -, e⟩⟩ <;>
    obtain rfl := Host.Outcome.next.inj (e.symm.trans h)
  · exact ((keepsSlots_resetRegisters hs).setResult 0).complete _ _
  · exact (keepsSlots_commandBody hs hu).complete _ _
  · exact (KeepsSlots.of_same hs SameSlots.refl).complete _ _

theorem keepsSlots_engineTurn {s t : State} (hs : s.SlotInv) (h : engineTurn s = .next t) : KeepsSlots s t := by
  rcases engineTurn_cases s with ⟨-, e⟩ | ⟨-, ⟨err, -, e⟩ | ⟨i, -, e⟩⟩
  · obtain rfl := Host.Outcome.next.inj (e.symm.trans h)
    exact KeepsSlots.of_same hs SameSlots.refl
  · obtain rfl := Host.Outcome.next.inj (e.symm.trans h)
    exact (KeepsSlots.of_same hs SameSlots.refl).complete _ _
  · exact keepsSlots_exec hs (e.symm.trans h)

/-! ## Host accesses and the step -/

/-- A read touches no slot (R99). -/
theorem sameSlots_busRead (N : Numerics) (a : Addr) (s : State) : SameSlots s (busRead N a s) := by
  rcases busRead_cases N a s with ⟨-, h⟩ | ⟨-, w, h⟩ | ⟨-, -, h⟩ <;> rw [h] <;> exact ⟨rfl, rfl, id, rfl, rfl⟩

/-- Of the registers of the slots a host writes only the read pointers (R50, R59). -/
theorem keepsSlots_writeCsr {s : State} (hs : s.SlotInv) (v : Word) (r : Csr) : KeepsSlots s (writeCsr v s r) := by
  cases r with
  | slot k q =>
    rw [writeCsr]
    split_ifs
    · refine ⟨rfl, List.length_modify _ _ _, fun y hy => ?_, hs.wideband⟩
      obtain ⟨j, hj⟩ := List.mem_iff_getElem?.1 hy
      rw [writeRptr, List.getElem?_modify] at hj
      obtain ⟨x, hx, rfl⟩ := Option.map_eq_some_iff.1 hj
      split_ifs with hk hr
      · exact (hs.get hx).rptr hr
      · exact hs.get hx
      · exact hs.get hx
    · exact KeepsSlots.of_same hs ⟨rfl, rfl, id, rfl, rfl⟩
  | _ => exact KeepsSlots.of_same hs ⟨rfl, rfl, id, rfl, rfl⟩

theorem keepsSlots_acceptWrite {s : State} (hs : s.SlotInv) (a : Nat) (v : Word) :
    KeepsSlots s (acceptWrite a v s) := by
  unfold acceptWrite
  cases windowOf s.params a with
  | csr => exact keepsSlots_writeCsr hs v _
  | _ => exact KeepsSlots.of_same hs ⟨rfl, rfl, id, rfl, rfl⟩

theorem keepsSlots_busWrite {s : State} (hs : s.SlotInv) (a : Addr) (v : Word) : KeepsSlots s (busWrite a v s) := by
  rcases busWrite_cases a v s with ⟨-, h⟩ | ⟨-, -, -, h⟩ | ⟨-, -, h⟩ <;> rw [h]
  · exact KeepsSlots.of_same hs ⟨rfl, rfl, id, rfl, rfl⟩
  · exact KeepsSlots.of_same hs ⟨rfl, rfl, id, rfl, rfl⟩
  · obtain ⟨hp, hl, hsl, hw⟩ := keepsSlots_acceptWrite hs a.toNat v
    exact ⟨hp, hl, hsl, hw⟩

/-- Taking the event off the list touches no slot. -/
theorem State.SlotInv.hostEvents {s : State} (hs : s.SlotInv) (es : List HostEvent) :
    State.SlotInv { s with hostEvents := es } := ⟨hs.params, hs.slots, hs.slot, hs.wideband⟩

/-- Settles O59, by the event the step takes: of the host's accesses only a write to RX_AUD_RPTR touches a slot, a reset
clears them all, and each command leaves each slot as it was, cleared, or with what its checks or the pairs of a frame
make of a sound slot. -/
theorem stepKeepsSlotsSound : Obligations.StepKeepsSlotsSound := by
  intro s t hs h
  cases hev : s.hostEvents with
  | nil => exact (keepsSlots_engineTurn hs (step_nil hev ▸ h)).slotInv hs
  | cons e es =>
    have hpop := hs.hostEvents es
    cases e with
    | read a =>
      obtain rfl := Host.Outcome.next.inj (step_read hev ▸ h)
      exact (KeepsSlots.of_same hpop (sameSlots_busRead _ a _)).slotInv hpop
    | write a v =>
      obtain rfl := Host.Outcome.next.inj (step_write hev ▸ h)
      exact (keepsSlots_busWrite hpop a v).slotInv hpop
    | rst =>
      obtain rfl := Host.Outcome.next.inj (step_rst hev ▸ h)
      exact (keepsSlots_resetRegisters hpop).slotInv hpop
    | engine => exact (keepsSlots_engineTurn hpop (step_engine hev ▸ h)).slotInv hpop

end Sys2Proof.Machine
end

section
/-! PROOFS. Completions and events (R35, R250, R254, R280, R282, R289, R291): which code a failure has, which IP bits a
command's rule and its completion set, and ADD_RX while disconnected (R255). -/

namespace Sys2Proof.Machine

/-! ## IP over a command's rule and its completion -/

/-- IP after a completion, bit by bit (R289). -/
theorem getLsbD_completeIp (e : Option CmdError) (moved : Bool) (ip : BitVec 10) (b : Nat) :
    (completeIp e moved ip).getLsbD b =
      (ip.getLsbD b || (e.isSome && decide (b = 8)) || (moved && decide (b = 9)) || decide (b = 0)) := by
  rw [completeIp, getLsbD_ipSet, getLsbD_ipSetIf, getLsbD_ipSetIf]
  rfl

/-- A completion moves neither CONNECTED nor a slot. -/
theorem stTuple_complete (e : Option CmdError) (st0 : Bool × List RxSt) (s : State) :
    (s.complete e st0).stTuple = s.stTuple := rfl

/-- What a command's rule may do to CMD_SEQ and IP: it counts nothing, clears nothing and sets the events of a frame
only. -/
structure RuleEvents (i : Instr) (s u : State) : Prop where
  cmdSeq : u.cmdSeq = s.cmdSeq
  kept : ∀ b, s.ip.getLsbD b = true → u.ip.getLsbD b = true
  other : ∀ b, b ∉ [1, 2, 3, 4, 5] → u.ip.getLsbD b = s.ip.getLsbD b
  frame : i ≠ .pushFrame → ∀ b, b ≠ 5 → u.ip.getLsbD b = s.ip.getLsbD b
  cfgFault : i ≠ .pushFrame → i ≠ .connect → u.ip = s.ip

/-- A rule that leaves IP alone. -/
theorem RuleEvents.silent {i : Instr} {s u : State} (hseq : u.cmdSeq = s.cmdSeq) (hip : u.ip = s.ip) :
    RuleEvents i s u :=
  ⟨hseq, fun _ => hip ▸ id, fun _ _ => by rw [hip], fun _ _ _ => by rw [hip], fun _ _ => hip⟩

/-- CONNECT sets CFG_FAULT at most (R252). -/
theorem ruleEvents_connect {s u : State} (h : connectBody s.num s = .ok u) : RuleEvents .connect s u := by
  obtain ⟨-, -, rfl⟩ := connectBody_ok_iff.1 h
  refine ⟨rfl, fun b hb => ?_, fun b hb => ?_, fun _ b hb => ?_, fun _ hne => absurd rfl hne⟩ <;>
    simp only [getLsbD_ipSetIf, Event.bit]
  · simp [hb]
  · have hb5 : b ≠ 5 := fun e => hb (by simp [e])
    simp [hb5]
  · simp [hb]

/-- A spectrum sets SPEC_READY, and the throttle nothing (R142, R150). -/
theorem getLsbD_ip_throttleAndSpectrum (N : Numerics) (s : State) (b : Nat) :
    (throttleAndSpectrum N s).ip.getLsbD b = (s.ip.getLsbD b || (s.specDue && decide (b = 1))) := by
  rcases throttleAndSpectrum_cases N s with ⟨hd, e⟩ | ⟨hd, e⟩ <;> rw [e, hd]
  · rw [spectrum_ip, getLsbD_ipSet]; rfl
  · simp [throttled]

/-- PUSH_FRAME sets the events of the spectrum, the rings, the guard and the implicit configures at most (R257). -/
theorem ruleEvents_pushFrame {s u : State} (h : pushFrameBody s.num s = .ok u) : RuleEvents .pushFrame s u := by
  obtain ⟨-, -, -, -, rfl⟩ := pushFrameBody_ok_iff.1 h
  have hspec := getLsbD_ip_throttleAndSpectrum s.num (acceptFrame s)
  obtain ⟨-, hkept, hother, -⟩ := fanOut_frame s.num (throttleAndSpectrum s.num (acceptFrame s)).params
    (throttleAndSpectrum s.num (acceptFrame s)).frame (throttleAndSpectrum s.num (acceptFrame s)).slots 0
    (throttleAndSpectrum s.num (acceptFrame s)).mem (throttleAndSpectrum s.num (acceptFrame s)).ip
  refine ⟨?_, fun b hb => hkept b ?_, fun b hb => (hother b ?_).trans ?_, fun hne => absurd rfl hne,
    fun hne => absurd rfl hne⟩
  · rcases throttleAndSpectrum_cases s.num (acceptFrame s) with ⟨-, e⟩ | ⟨-, e⟩ <;>
      simp only [setResult_cmdSeq, fanOutStep_cmdSeq, e] <;> rfl
  · rw [hspec, show (acceptFrame s).ip = s.ip from rfl, hb, Bool.true_or]
  · exact fun hm => hb (List.mem_cons_of_mem _ hm)
  · have hb1 : b ≠ 1 := fun e => hb (by simp [e])
    simp [hspec, hb1]

/-- What the rule of every command but SOFT_RESET may do to CMD_SEQ and IP. -/
theorem ruleEvents_commandBody {i : Instr} {s u : State} (hr : i ≠ .softReset) (h : commandBody i s = .ok u) :
    RuleEvents i s u := by
  cases i with
  | softReset => exact absurd rfl hr
  | connect => exact ruleEvents_connect h
  | pushFrame => exact ruleEvents_pushFrame h
  | nop | disconnect => obtain rfl := Except.ok.inj h; exact .silent rfl rfl
  | setFft => obtain ⟨-, -, -, rfl⟩ := setFftBody_ok_iff.1 h; exact .silent rfl rfl
  | addRx k => obtain ⟨-, -, -, -, -, -, -, rfl⟩ := addRxBody_ok_iff.1 h; exact .silent rfl rfl
  | removeRx k => obtain ⟨-, -, ⟨-, rfl⟩ | ⟨-, rfl⟩⟩ := removeRxBody_ok_iff.1 h <;> exact .silent rfl rfl
  | retuneRx k => obtain ⟨-, -, ⟨-, rfl⟩ | ⟨-, -, -, rfl⟩⟩ := retuneRxBody_ok_iff.1 h <;> exact .silent rfl rfl
  | stopRx k => obtain ⟨-, -, -, rfl⟩ := stopRxBody_ok_iff.1 h; exact .silent rfl rfl
  | configureRx k => obtain ⟨-, -, -, -, -, -, rfl⟩ := configureRxBody_ok_iff.1 h; exact .silent rfl rfl
  | readTaps k => obtain ⟨-, -, -, rfl⟩ := readTapsBody_ok_iff.1 h; exact .silent rfl rfl
  | designFir => obtain ⟨-, -, rfl⟩ := designFirBody_ok_iff.1 h; exact .silent rfl rfl

/-! ## Errors are precise (R282) -/

/-- The error codes are 1 to 11 (R280). -/
theorem errCode_range (e : CmdError) : 1 ≤ (errCode e).toNat ∧ (errCode e).toNat ≤ 11 := by
  cases e <;> simp [errCode]

theorem opcode_instr (o : Opcode) (k : BitVec 8) : (o.instr k).opcode = o := by cases o <;> rfl

/-- A word is its three fields (R120). -/
theorem word_eq_fields (w : Word) : w = rsvOf w ++ slotOf w ++ opcOf w := by
  ext i hi
  simp only [opcOf, slotOf, rsvOf]
  grind

/-- Only the word 4 is SOFT_RESET's (R122). -/
theorem decode_softReset_iff {numRx : Nat} {w : Word} : decode numRx w = .ok .softReset ↔ w = 0x00000004 := by
  constructor
  · intro h
    obtain ⟨o, ho, hrsv, hslot, -, hi⟩ := decode_ok_iff.1 h
    obtain rfl : o = .softReset := (opcode_instr o (slotOf w)).symm.trans (congrArg Instr.opcode hi)
    rw [word_eq_fields w, hrsv, hslot rfl, ← byte_of_opcodeOf ho]
    rfl
  · rintro rfl
    rfl

/-- Settles O6: an illegal word and a failing rule end in the error's completion, and a rule that succeeds leaves
CMD_SEQ to the completion, which the reset of SOFT_RESET precedes. -/
theorem errorsArePrecise : Obligations.ErrorsArePrecise := by
  intro s hev hbusy
  have failed {e : CmdError} (h : step s = .next (s.raiseError e)) :
      ∃ code detail : BitVec 8, 1 ≤ code.toNat ∧ code.toNat ≤ 11 ∧ step s = .next (s.failedWith code detail) :=
    ⟨errCode e, errDetail e, (errCode_range e).1, (errCode_range e).2, raiseError_eq_failedWith e s ▸ h⟩
  rw [step_nil hev] at failed ⊢
  rcases engineTurn_cases s with ⟨hidle, -⟩ | ⟨-, ⟨e, -, he⟩ | ⟨i, hi, he⟩⟩
  · exact absurd (hbusy.symm.trans hidle) (by decide)
  · exact .inl (failed he)
  · rcases exec_cases i s with ⟨rfl, hx⟩ | ⟨hr, ⟨u, hu, hx⟩ | ⟨e, -, hx⟩⟩
    · refine .inr ⟨_, he.trans hx, rfl, rfl, rfl, rfl, ?_, ?_⟩
      · simp [getLsbD_completeIp]
      · rw [if_pos (decode_softReset_iff.1 hi)]; rfl
    · have hcmd : s.cmd ≠ 0x00000004 := fun h4 =>
        hr (Except.ok.inj (hi.symm.trans (decode_softReset_iff.2 h4)))
      refine .inr ⟨_, he.trans hx, rfl, rfl, rfl, rfl, ?_, ?_⟩
      · simp [getLsbD_completeIp]
      · rw [if_neg hcmd, complete_cmdSeq, (ruleEvents_commandBody hr hu).cmdSeq]
    · exact .inl (failed (he.trans hx))

/-- Settles O7: the rule sets the events of frames and configures, the completion CMD_DONE, CMD_ERR and STATE_CHANGE. -/
theorem eventsComeFromTheirCauses : Obligations.EventsComeFromTheirCauses := by
  intro i s hr
  rcases exec_cases i s with ⟨he, -⟩ | ⟨-, ⟨u, hu, hx⟩ | ⟨e, -, hx⟩⟩
  · exact absurd he hr
  · obtain ⟨-, hkept, hother, hframe, hcfg⟩ := ruleEvents_commandBody hr hu
    refine ⟨_, hx, ?_⟩
    simp only [complete_ip, getLsbD_completeIp, complete_status, stTuple_complete, Option.isSome_none]
    refine ⟨fun b hb => by simp [hkept b hb], by simp, fun hp b hb => ?_, fun hp hc => by simp [hcfg hp hc],
      by rw [hother 6 (by decide)]; simp, by rw [hother 7 (by decide)]; simp, by rw [hother 8 (by decide)]; simp,
      by rw [hother 9 (by decide)]; simp⟩
    have hb' : b ≠ 0 ∧ b ≠ 5 ∧ b ≠ 8 ∧ b ≠ 9 := by fin_cases hb <;> decide
    simp [hframe hp b hb'.2.1, hb']
  · refine ⟨_, hx, ?_⟩
    rw [State.raiseError, stTuple_complete]
    simp only [complete_ip, getLsbD_completeIp, complete_status, Option.isSome_some]
    refine ⟨fun b hb => by simp [hb], by simp, fun hp b hb => ?_, fun _ _ => by simp, by simp, by simp, by simp,
      by simp⟩
    have hb' : b ≠ 0 ∧ b ≠ 8 := by fin_cases hb <;> decide
    simp [hb']

/-! ## ADD_RX while disconnected (R255) -/

/-- A_MODE is the number of the mode it names (R45). -/
theorem code_of_modeOf {w : Word} {m : Mode} (h : modeOf w = some m) : m.code.setWidth 32 = w := by
  unfold modeOf at h
  split_ifs at h with h0 h1 h2 h3 h4 h5 <;> obtain rfl := Option.some.inj h <;> subst w <;> rfl

/-- RX_NTAPS of a new receiver (R255). -/
theorem ofNat_addTapCount (p : Params) (a : ArgRegs) :
    BitVec.ofNat 32 (addTapCount p a) = if a.nTaps = 0 then BitVec.ofNat 32 p.defaultTaps else a.nTaps := by
  unfold addTapCount
  split_ifs
  · rfl
  · exact BitVec.ofNat_toNat _ _

/-- Replacing a slot by one of another ST moves the tuple of STATE_CHANGE (R289). -/
theorem stTuple_setSlot_ne {s : State} {k : Nat} {x y : RxSlot} (hx : s.slots[k]? = some x)
    (hne : y.regs.st ≠ x.regs.st) : (s.setSlot k y).stTuple ≠ s.stTuple := by
  intro h
  have hk : k < s.slots.length := (List.getElem?_eq_some_iff.1 hx).1
  have hst : ((s.setSlot k y).slots.map fun z => z.regs.st)[k]? = (s.slots.map fun z => z.regs.st)[k]? :=
    congrArg (fun t : Bool × List RxSt => t.2[k]?) h
  rw [List.getElem?_map, List.getElem?_map, hx, show (s.setSlot k y).slots = s.slots.set k y from rfl,
    List.getElem?_set_self hk] at hst
  exact hne (Option.some.inj hst)

/-- Settles O18: the rule succeeds with the new receiver in the slot, whose move to UNCONFIGURED is a STATE_CHANGE. -/
theorem addRxWhileDisconnected : Obligations.AddRxWhileDisconnected := by
  intro k s x m hx hst hm hconn
  refine ⟨code_of_modeOf (of_addChecks hm).2, x.hidden, ?_⟩
  have hbody : commandBody (.addRx k) s = .ok ((s.setSlot k.toNat (newSlot s.params s.args m x.hidden)).setResult 1) :=
    addRxBody_ok_iff.2 ⟨x, m, _, hx, hst, hm, by rw [if_pos hconn], rfl⟩
  have hmoved : ((s.setSlot k.toNat (newSlot s.params s.args m x.hidden)).stTuple != s.stTuple) = true :=
    bne_iff_ne.2 (stTuple_setSlot_ne hx (by rw [hst]; exact RxSt.noConfusion))
  rw [exec_ok Instr.noConfusion hbody, complete_none_eq_succeeded, stTuple_setResult, hmoved]
  unfold newSlot
  rw [ofNat_addTapCount]
  rfl

end Sys2Proof.Machine
end

section
/-! PROOFS. The host's registers (10_state.md): the register at each offset, the CMD, IE and IP registers, the storage
registers and the read pointers. -/

namespace Sys2Proof.Machine

/-! ## An access to an aligned CSR offset -/

/-- The step of a read of an aligned CSR offset that is no draw. -/
theorem step_read_csr {s : State} {a : Addr} {es : List HostEvent} (hev : s.hostEvents = .read a :: es)
    (h4 : a.toNat % 4 = 0) (hlt : a.toNat < 0x1000)
    (hdraw : s.status.busy = false ∨ (csrAt s.params.numRx a.toNat).isDraw = false) :
    step s = .next { s with
      hostEvents := es, herr := false, hrdata := readCsr s.num s (csrAt s.params.numRx a.toNat) } := by
  have hno : (s.status.busy && (csrAt s.params.numRx a.toNat).isDraw) = false := by
    rcases hdraw with h | h <;> simp [h]
  rw [step_read hev, busRead_csr (s := { s with hostEvents := es }) h4 hlt, if_neg (by rw [hno]; decide)]
  rfl

/-- The step of a write to an aligned CSR offset that is no hazard. -/
theorem step_write_csr {s : State} {a : Addr} {v : Word} {es : List HostEvent} (hev : s.hostEvents = .write a v :: es)
    (h4 : a.toNat % 4 = 0) (hlt : a.toNat < 0x1000)
    (hok : s.status.busy = false ∨ a.toNat = 0x028 ∨ a.toNat = 0x02C) :
    step s = .next { (writeCsr v { s with hostEvents := es } (csrAt s.params.numRx a.toNat)) with herr := false } := by
  rw [step_write hev, busWrite_csr (s := { s with hostEvents := es }) h4 hlt, if_neg]
  rintro ⟨hb, hie, hip⟩
  rcases hok with h | h | h
  · exact absurd (h.symm.trans hb) (by decide)
  · exact hie h
  · exact hip h

/-- The step of a write to an aligned CSR offset while BUSY = 1, but for IE and IP: a hazard (R315). -/
theorem step_write_csr_busy {s : State} {a : Addr} {v : Word} {es : List HostEvent}
    (hev : s.hostEvents = .write a v :: es) (h4 : a.toNat % 4 = 0) (hlt : a.toNat < 0x1000)
    (hbusy : s.status.busy = true) (hie : a.toNat ≠ 0x028) (hip : a.toNat ≠ 0x02C) :
    step s = .next { s with hostEvents := es, herr := false, ip := s.ip ||| 0x040#10 } := by
  rw [step_write hev, busWrite_csr (s := { s with hostEvents := es }) h4 hlt, if_pos ⟨hbusy, hie, hip⟩]
  rfl

/-! ## CMD, IE and IP (R32, R36, R37, R288) -/

/-- Settles O46: the three accesses to the offset of CMD. -/
theorem commandRegister : Obligations.CommandRegister := by
  intro s v es
  have hcmd : csrAt s.params.numRx 0x018 = .cmd := csrAt_eq_cmd.2 rfl
  refine ⟨fun hb hev => ?_, fun hb hev => ?_, fun hev => ?_⟩
  · have h := step_write_csr hev (by decide) (by decide) (.inl hb)
    rwa [show (0x018 : Addr).toNat = 0x018 from rfl, hcmd] at h
  · exact step_write_csr_busy hev (by decide) (by decide) hb (by decide) (by decide)
  · have h := step_read_csr hev (by decide) (by decide)
      (.inr (by rw [show (0x018 : Addr).toNat = 0x018 from rfl, hcmd]; rfl))
    rwa [show (0x018 : Addr).toNat = 0x018 from rfl, hcmd] at h

/-- Ten bits read back with zeros above. -/
theorem setWidth_eq_zero_append {n m : Nat} (x : BitVec n) : x.setWidth (m + n) = (0 : BitVec m) ++ x := by
  ext i hi
  simp only [BitVec.getElem_setWidth, BitVec.getElem_append]
  grind

/-- A bit written to IP as 1 is cleared (R37). -/
theorem getLsbD_ipClear (v : Word) (ip : BitVec 10) {b : Nat} (hb : b < 10) :
    (ipClear v ip).getLsbD b = (ip.getLsbD b && !v.getLsbD b) := by
  simp [ipClear, hb]

/-- IRQ is the OR of the enabled events (R288). -/
theorem irq_iff (s : State) : s.irq = true ↔ ∃ b, b < 10 ∧ s.ie.getLsbD b = true ∧ s.ip.getLsbD b = true := by
  rw [State.irq, bne_iff_ne, ne_eq, BitVec.eq_of_getLsbD_eq_iff]
  simp

/-- Settles O47: IE and IP take their writes BUSY or not, and IRQ is the OR of the bits set in both. -/
theorem interruptRegisters : Obligations.InterruptRegisters := by
  intro s v es
  have hie : csrAt s.params.numRx (0x028 : Addr).toNat = .ie := csrAt_eq_ie.2 rfl
  have hip : csrAt s.params.numRx (0x02C : Addr).toNat = .ip := csrAt_eq_ip.2 rfl
  refine ⟨fun hev => ?_, fun hev => ?_, fun hev => ?_, fun hev => ?_, irq_iff s⟩
  · have h := step_write_csr hev (by decide) (by decide) (.inr (.inl rfl))
    rwa [hie] at h
  · have h := step_read_csr hev (by decide) (by decide) (.inr (by rw [hie]; rfl))
    rwa [hie, readCsr, setWidth_eq_zero_append (m := 22)] at h
  · have h := step_write_csr hev (by decide) (by decide) (.inr (.inr rfl))
    rw [hip] at h
    exact ⟨_, h, rfl, fun b hb => getLsbD_ipClear v s.ip hb⟩
  · have h := step_read_csr hev (by decide) (by decide) (.inr (by rw [hip]; rfl))
    rwa [hip, readCsr, setWidth_eq_zero_append (m := 22)] at h

/-! ## The read pointers (R59) -/

/-- A write to the read pointer of a slot that holds a receiver (R59). -/
theorem writeRptr_of_some {depth k : Nat} {v : Word} {l : List RxSlot} {x : RxSlot} (hx : l[k]? = some x)
    (hst : x.regs.st ≠ .empty) :
    writeRptr depth k v l =
      if (x.regs.audWptr - v).toNat ≤ depth then l.set k { x with regs := { x.regs with audRptr := v } } else l := by
  have hkept : rptrKept depth x.regs v = decide ((x.regs.audWptr - v).toNat ≤ depth) := by
    simp [rptrKept, hst]
  rw [writeRptr, List.modify_eq_set_getElem?, hx]
  simp only [Option.map_some, Option.map_eq_map, Option.getD_some, hkept, decide_eq_true_eq]
  split_ifs
  · rfl
  · obtain ⟨hk, rfl⟩ := List.getElem?_eq_some_iff.1 hx
    exact List.set_getElem_self hk

/-- Settles O50: the offset selects the slot's RX_AUD_RPTR, whose write keeps a value that leaves a legal fill level. -/
theorem readPointerIsWarl : Obligations.ReadPointerIsWarl := by
  intro s a k x v es hb hev hk h16 ha hx hst
  have hcsr : csrAt s.params.numRx a.toNat = .slot k .audRptr := csrAt_eq_rptr.2 ⟨hk, ha⟩
  rw [step_write_csr hev (by omega) (by omega) (.inl hb), hcsr, writeCsr, if_pos rfl]
  simp only [writeRptr_of_some hx hst]
  split_ifs <;> rfl

/-! ## The registers by offset (10_state.md section 2) -/

/-- A row of the global register map: the offset is aligned, below the slot banks, and reads as the word. -/
def GlobalRow (s : State) (e : Nat × Word) : Prop :=
  decide (e.1 % 4 = 0 ∧ e.1 < 0x400) = true ∧ readCsr s.num s ((globalMap.lookup e.1).getD .reserved) = e.2

/-- A row of a slot bank's map: the offset is aligned, within the bank, and reads as the word. -/
def SlotRow (r : RxRegs) (e : Nat × Word) : Prop :=
  decide (e.1 % 4 = 0 ∧ e.1 < 0x80) = true ∧ (slotMap.lookup e.1).elim 0 (readSlotReg r) = e.2

/-- A read of an offset of a table whose rows are rows of the global map, while BUSY = 0. -/
theorem step_read_globalRow {s : State} {a : Addr} {w : Word} {es : List HostEvent} {rows : List (Nat × Word)}
    (hev : s.hostEvents = .read a :: es) (hb : s.status.busy = false) (hrows : ∀ e ∈ rows, GlobalRow s e)
    (hmem : (a.toNat, w) ∈ rows) : step s = .next { s with hostEvents := es, herr := false, hrdata := w } := by
  obtain ⟨hoff, hread⟩ := hrows _ hmem
  obtain ⟨h4, hlt⟩ := of_decide_eq_true hoff
  rw [step_read_csr hev h4 (lt_trans hlt (by decide)) (.inl hb), csrAt_global hlt, hread]

/-- A read of an offset of a table whose rows are rows of a slot bank's map, while BUSY = 0. -/
theorem step_read_slotRow {s : State} {a : Addr} {w : Word} {es : List HostEvent} {rows : List (Nat × Word)}
    {k off : Nat} {x : RxSlot} (hev : s.hostEvents = .read a :: es) (hb : s.status.busy = false)
    (hk : k < s.params.numRx) (h16 : k < 16) (hx : s.slots[k]? = some x) (ha : a.toNat = 0x400 + 0x80 * k + off)
    (hrows : ∀ e ∈ rows, SlotRow x.regs e) (hmem : (off, w) ∈ rows) :
    step s = .next { s with hostEvents := es, herr := false, hrdata := w } := by
  obtain ⟨hoff, hread⟩ := hrows _ hmem
  obtain ⟨h4, hlt⟩ := of_decide_eq_true hoff
  dsimp only at h4 hlt hread
  rw [step_read_csr hev (by omega) (by omega) (.inl hb), ha, csrAt_slot hk hlt, ← hread]
  cases slotMap.lookup off with
  | none => rfl
  | some r => simp only [Option.elim, readCsr, hx]

/-- No register of the global map stands at an offset 10_state.md leaves out. -/
theorem globalMap_defined : ∀ e ∈ globalMap, ¬ (e.1 = 0x014 ∨ (0x05C ≤ e.1 ∧ e.1 < 0x080) ∨ e.1 = 0x0C8 ∨ e.1 = 0x0CC ∨
    e.1 = 0x0D4 ∨ (0x0F0 ≤ e.1 ∧ e.1 < 0x100) ∨ 0x120 ≤ e.1) := by decide

/-- An offset of a register of the global map is in the map. -/
theorem mem_globalMap_of_lookup {o : Nat} {r : Csr} (h : globalMap.lookup o = some r) : (o, r) ∈ globalMap := by
  obtain ⟨l₁, l₂, hm, -⟩ := List.lookup_eq_some_iff.1 h
  rw [hm]
  simp

/-- The reserved offsets, those of absent banks included (R48). -/
theorem csrAt_reserved {n o : Nat}
    (h : o = 0x014 ∨ (0x05C ≤ o ∧ o < 0x080) ∨ o = 0x0C8 ∨ o = 0x0CC ∨ o = 0x0D4 ∨ (0x0F0 ≤ o ∧ o < 0x100) ∨
      (0x120 ≤ o ∧ o < 0x400) ∨ (0x400 + 0x80 * n ≤ o ∧ o < 0x1000)) : csrAt n o = .reserved := by
  rcases csrAt_cases n o with ⟨hlt, hc⟩ | ⟨k, r, hk, ho, -, -⟩ | ⟨-, hc⟩
  · rw [hc]
    cases hl : globalMap.lookup o with
    | none => rfl
    | some r =>
      have hdef := globalMap_defined _ (mem_globalMap_of_lookup hl)
      dsimp only at hdef
      omega
  · omega
  · exact hc

/-- Settles O53, row by row of the two maps. -/
theorem registerLayout : Obligations.RegisterLayout := by
  intro s a w es hb hev
  refine ⟨step_read_globalRow hev hb ?_, fun h4 hres => ?_, fun k x off hk h16 hx ha =>
    step_read_slotRow hev hb hk h16 hx ha ?_⟩
  · simp only [List.forall_mem_cons, ← setWidth_eq_zero_append, GlobalRow, List.not_mem_nil, IsEmpty.forall_iff,
      implies_true, and_true]
    constructorm* _ ∧ _ <;> rfl
  · have hlt : a.toNat < 0x1000 := by omega
    rw [step_read_csr hev h4 hlt (.inl hb), csrAt_reserved hres]
    rfl
  · simp only [List.forall_mem_cons, SlotRow, List.not_mem_nil, IsEmpty.forall_iff, implies_true, and_true]
    constructorm* _ ∧ _ <;> rfl

/-! ## Storage and read-only registers (R43, R44, R46, R48, R61) -/

/-- The argument and frame descriptor registers. -/
def Csr.isStorage : Csr → Bool
  | .aCf _ | .aRate _ | .aBw _ | .aOutRate _ | .aCutoff _ => true
  | .aNTaps | .aMode | .aId | .aTag | .aLabel | .aFlags | .aLog2n | .aThrottle => true
  | .fNPairs | .fRate _ | .fCf _ | .fTs _ => true
  | _ => false

/-- The offsets of the argument and frame descriptor registers (10_state.md section 2). -/
def storageOffset (o : Nat) : Prop := 0x080 ≤ o ∧ o ≤ 0x0C4 ∨ o = 0x0D0 ∨ 0x0D8 ≤ o ∧ o ≤ 0x0EC

theorem globalMap_isStorage : ∀ i < 0x100,
    ((globalMap.lookup (4 * i)).getD .reserved).isStorage =
      decide (0x080 ≤ 4 * i ∧ 4 * i ≤ 0x0C4 ∨ 4 * i = 0x0D0 ∨ 0x0D8 ≤ 4 * i ∧ 4 * i ≤ 0x0EC) := by
  decide +kernel

/-- The storage registers stand at the storage offsets. -/
theorem csrAt_isStorage_iff {n o : Nat} (h4 : o % 4 = 0) : (csrAt n o).isStorage = true ↔ storageOffset o := by
  unfold storageOffset
  rcases csrAt_cases n o with ⟨hlt, h⟩ | ⟨k, r, -, ho, -, h⟩ | ⟨ho, h⟩ <;> rw [h]
  · obtain ⟨i, rfl⟩ : ∃ i, o = 4 * i := ⟨o / 4, by omega⟩
    rw [globalMap_isStorage i (by omega), decide_eq_true_eq]
  · exact ⟨(nomatch ·), fun hs => by omega⟩
  · exact ⟨(nomatch ·), fun hs => by omega⟩

/-- Every storage register stands at one offset. -/
theorem csrAt_storage_injective {n o a : Nat} (hs : (csrAt n a).isStorage = true) (h : csrAt n o = csrAt n a) :
    o = a := by
  rcases csrAt_cases n a with ⟨hlt, ha⟩ | ⟨k, r, -, -, -, ha⟩ | ⟨-, ha⟩
  · cases hl : globalMap.lookup a with
    | none => rw [ha, hl] at hs; cases hs
    | some r => exact (csrAt_eq_global hlt hl).1 (by rw [h, ha, hl]; rfl)
  · rw [ha] at hs; cases hs
  · rw [ha] at hs; cases hs

/-- A write of a storage register changes the argument and descriptor registers alone. -/
theorem writeCsr_storage (v : Word) (s : State) {r : Csr} (h : r.isStorage = true) :
    ∃ args frame, writeCsr v s r = { s with args := args, frame := frame } := by
  cases r with
  | aCf | aRate | aBw | aOutRate | aCutoff | aNTaps | aMode | aId | aTag | aLabel | aFlags | aLog2n | aThrottle
  | fNPairs | fRate | fCf | fTs => exact ⟨_, _, rfl⟩
  | _ => cases h

theorem half_setHalf_ne {hi hi' : Bool} {v : Word} {x : BitVec 64} (h : hi' ≠ hi) :
    half hi' (setHalf hi v x) = half hi' x := by
  rw [Bool.eq_not_of_ne h]
  exact half_setHalf_other hi v x

/-- The two bits A_FLAGS keeps (R44). -/
theorem setWidth_two_eq_and (v : Word) : (v.setWidth 2).setWidth 32 = v &&& 3 := by
  apply BitVec.eq_of_toNat_eq
  have h3 : (3 : Word).toNat = 2 ^ 2 - 1 := rfl
  rw [BitVec.toNat_and, h3, Nat.and_two_pow_sub_one_eq_mod, BitVec.toNat_setWidth, BitVec.toNat_setWidth]
  omega

/-- A storage register reads as the word written last; A_FLAGS keeps two bits of it (R43, R44, R46). -/
theorem readCsr_writeCsr_same (N : Numerics) (v : Word) (s : State) {r : Csr} (h : r.isStorage = true) :
    readCsr N (writeCsr v s r) r = if r = .aFlags then v &&& 3 else v := by
  cases r with
  | aCf hi | aRate hi | aBw hi | aOutRate hi | aCutoff hi | fRate hi | fCf hi | fTs hi => exact half_setHalf_same hi v _
  | aFlags =>
    show (v.setWidth 2).setWidth 32 = v &&& 3
    exact setWidth_two_eq_and v
  | aNTaps | aMode | aId | aTag | aLabel | aLog2n | aThrottle | fNPairs => rfl
  | _ => cases h

/-- A write of a storage register changes what no other register reads as (R43, R46, R49). -/
theorem readCsr_writeCsr_other (N : Numerics) (v : Word) (s : State) {r r' : Csr} (h : r.isStorage = true)
    (hne : r' ≠ r) : readCsr N (writeCsr v s r) r' = readCsr N s r' := by
  cases r with
  | aCf hi => cases r' with | aCf hi' => exact half_setHalf_ne fun e => hne (e ▸ rfl) | _ => rfl
  | aRate hi => cases r' with | aRate hi' => exact half_setHalf_ne fun e => hne (e ▸ rfl) | _ => rfl
  | aBw hi => cases r' with | aBw hi' => exact half_setHalf_ne fun e => hne (e ▸ rfl) | _ => rfl
  | aOutRate hi => cases r' with | aOutRate hi' => exact half_setHalf_ne fun e => hne (e ▸ rfl) | _ => rfl
  | aCutoff hi => cases r' with | aCutoff hi' => exact half_setHalf_ne fun e => hne (e ▸ rfl) | _ => rfl
  | aNTaps => cases r' with | aNTaps => exact absurd rfl hne | _ => rfl
  | aMode => cases r' with | aMode => exact absurd rfl hne | _ => rfl
  | aId => cases r' with | aId => exact absurd rfl hne | _ => rfl
  | aTag => cases r' with | aTag => exact absurd rfl hne | _ => rfl
  | aLabel => cases r' with | aLabel => exact absurd rfl hne | _ => rfl
  | aFlags => cases r' with | aFlags => exact absurd rfl hne | _ => rfl
  | aLog2n => cases r' with | aLog2n => exact absurd rfl hne | _ => rfl
  | aThrottle => cases r' with | aThrottle => exact absurd rfl hne | _ => rfl
  | fNPairs => cases r' with | fNPairs => exact absurd rfl hne | _ => rfl
  | fRate hi => cases r' with | fRate hi' => exact half_setHalf_ne fun e => hne (e ▸ rfl) | _ => rfl
  | fCf hi => cases r' with | fCf hi' => exact half_setHalf_ne fun e => hne (e ▸ rfl) | _ => rfl
  | fTs hi => cases r' with | fTs hi' => exact half_setHalf_ne fun e => hne (e ▸ rfl) | _ => rfl
  | _ => cases h

/-- No register reads the event list or HERR. -/
theorem readCsr_ports (N : Numerics) (s : State) (es : List HostEvent) (e : Bool) (r : Csr) :
    readCsr N { s with hostEvents := es, herr := e } r = readCsr N s r := by cases r <;> rfl

/-- A register's write does not touch the event list. -/
theorem writeCsr_hostEvents (v : Word) (s : State) (es : List HostEvent) (r : Csr) :
    writeCsr v { s with hostEvents := es } r = { (writeCsr v s r) with hostEvents := es } := by
  cases r with
  | slot k q => rw [writeCsr, writeCsr]; split_ifs <;> rfl
  | _ => rfl

/-- A write to a read-only or reserved register is ignored (R48, R61). -/
theorem writeCsr_ignored (v : Word) (s : State) {r : Csr} (hs : r.isStorage = false) (hcmd : r ≠ .cmd) (hie : r ≠ .ie)
    (hip : r ≠ .ip) (hptr : ∀ k, r ≠ .slot k .audRptr) : writeCsr v s r = s := by
  cases r with
  | cmd => exact absurd rfl hcmd
  | ie => exact absurd rfl hie
  | ip => exact absurd rfl hip
  | slot k q => rw [writeCsr, if_neg fun h => hptr k (by rw [h])]
  | aCf | aRate | aBw | aOutRate | aCutoff | aNTaps | aMode | aId | aTag | aLabel | aFlags | aLog2n | aThrottle
  | fNPairs | fRate | fCf | fTs => cases hs
  | _ => rfl

/-- Settles O48: a storage offset selects a storage register and no other offset does; every other writable offset is
named. -/
theorem hostRegistersAreStorage : Obligations.HostRegistersAreStorage := by
  intro s a v es hb hev h4 hlt
  have hstep := step_write_csr hev h4 hlt (.inl hb)
  refine ⟨fun hsto => ?_, fun hsto hcmd hie hip hptr => ?_⟩
  · have hs : (csrAt s.params.numRx a.toNat).isStorage = true := (csrAt_isStorage_iff h4).2 hsto
    have hsame := readCsr_writeCsr_same s.num v s hs
    have hother {o : Nat} (ho : o ≠ a.toNat) := readCsr_writeCsr_other s.num v s hs
      (r' := csrAt s.params.numRx o) fun h => ho (csrAt_storage_injective hs h)
    have hflags : csrAt s.params.numRx a.toNat = .aFlags ↔ a.toNat = 0x0BC := csrAt_eq_global (by decide) rfl
    obtain ⟨args, frame, hw⟩ := writeCsr_storage v s hs
    rw [writeCsr_hostEvents, hw] at hstep
    rw [hw] at hsame hother
    have hports := readCsr_ports s.num { s with args := args, frame := frame } es false
    refine ⟨_, hstep, (hports _).trans (hsame.trans ?_), fun o _ ho => (hports _).trans (hother ho), rfl, rfl, rfl, rfl,
      rfl⟩
    simp only [hflags]
  · have hs : (csrAt s.params.numRx a.toNat).isStorage = false :=
      Bool.eq_false_of_not_eq_true fun h => hsto ((csrAt_isStorage_iff h4).1 h)
    rw [hstep, writeCsr_ignored v _ hs (fun h => hcmd (csrAt_eq_cmd.1 h)) (fun h => hie (csrAt_eq_ie.1 h))
      (fun h => hip (csrAt_eq_ip.1 h)) fun k h => hptr ⟨k, csrAt_eq_rptr.1 h⟩]

end Sys2Proof.Machine
end

section
/-! PROOFS. The fields of the packed registers STATUS, RX_STATE and PARAM0 (R31, R33, R45, R51). -/

namespace Sys2Proof.Machine

theorem getLsbD_bitOf (b : Bool) (i : Nat) : (bitOf b).getLsbD i = (decide (i = 0) && b) := by
  rw [bitOf, BitVec.getLsbD_ofBool]

/-- The flags of STATUS (R33). -/
theorem status_word_flags (t : Status) :
    t.word.getLsbD 0 = t.busy ∧ t.word.getLsbD 1 = t.connected ∧ t.word.getLsbD 2 = t.err := by
  simp only [Status.word, BitVec.getLsbD_append, getLsbD_bitOf]
  grind

/-- The fields of STATUS, and the zeros between them (R33). -/
theorem status_word_fields (t : Status) :
    t.word.extractLsb' 3 5 = 0 ∧ t.word.extractLsb' 8 8 = t.errCode ∧ t.word.extractLsb' 16 8 = t.errDetail ∧
      t.word.extractLsb' 24 8 = 0 := by
  refine ⟨?_, ?_, ?_, ?_⟩ <;> ext i hi <;>
    simp only [Status.word, BitVec.getElem_extractLsb', BitVec.getLsbD_append, getLsbD_bitOf] <;> grind

/-- The flags of RX_STATE (R51). -/
theorem stateWord_flags (r : RxRegs) :
    r.stateWord.getLsbD 2 = r.st.active ∧ r.stateWord.getLsbD 3 = r.cfgErr ∧ r.stateWord.getLsbD 7 = false ∧
      r.stateWord.getLsbD 8 = r.hasTag ∧ r.stateWord.getLsbD 9 = r.hasLabel := by
  simp only [RxRegs.stateWord, BitVec.getLsbD_append, getLsbD_bitOf]
  grind

/-- The fields of RX_STATE, and the zeros above them (R51). -/
theorem stateWord_fields (r : RxRegs) :
    r.stateWord.extractLsb' 0 2 = r.st.code ∧ r.stateWord.extractLsb' 4 3 = r.mode.code ∧
      r.stateWord.extractLsb' 10 22 = 0 := by
  refine ⟨?_, ?_, ?_⟩ <;> ext i hi <;>
    simp only [RxRegs.stateWord, BitVec.getElem_extractLsb', BitVec.getLsbD_append, getLsbD_bitOf] <;> grind

/-- ACTIVE is set on UNCONFIGURED and CONFIGURED (R51). -/
theorem active_iff (st : RxSt) : st.active = true ↔ st = .unconfigured ∨ st = .configured := by cases st <;> decide

/-- The parameters fit their fields of PARAM0 (R6, R31). -/
theorem word0_fields {p : Params} (hp : p.Valid) :
    ((Params.word0 p).extractLsb' 0 8).toNat = p.numRx ∧ ((Params.word0 p).extractLsb' 8 8).toNat = p.maxLog2n ∧
      ((Params.word0 p).extractLsb' 16 16).toNat = p.maxTaps := by
  have hrx := hp.numRx
  have htaps := hp.maxTaps
  have hlog := hp.maxLog2n
  simp only [Params.word0, BitVec.extractLsb'_toNat, BitVec.toNat_ofNat, Nat.shiftRight_eq_div_pow]
  omega

/-- Settles O54, register by register. -/
theorem packedRegisterFields : Obligations.PackedRegisterFields := by
  refine ⟨fun t => ?_, fun r => ?_, by decide, by decide, fun p => word0_fields⟩
  · obtain ⟨hbusy, hconn, herr⟩ := status_word_flags t
    exact ⟨hbusy, hconn, herr, status_word_fields t⟩
  · obtain ⟨hact, hcfg, hzero, htag, hlabel⟩ := stateWord_flags r
    obtain ⟨hst, hmode, hhigh⟩ := stateWord_fields r
    exact ⟨hst, by rw [hact, active_iff], hcfg, hmode, hzero, htag, hlabel, hhigh⟩

end Sys2Proof.Machine
end

section
/-! PROOFS. The phase wrap (R56, R194), and the circular delay line as a window over the last samples (R72, R196,
R198). -/

namespace Sys2Proof.Machine

/-! ## The phase wrap -/

/-- A phase in range is not above PI. -/
theorem f64Lt_pi_of_inPhaseRange {p : F64} (h : inPhaseRange p = true) : f64Lt f64Pi p = false := by
  simp only [inPhaseRange, f64Lt, f64Le, Bool.and_eq_true, Bool.and_eq_false_iff, decide_eq_true_eq,
    decide_eq_false_iff_not] at *
  omega

/-- A phase in range is not at or below -PI. -/
theorem f64Le_negPi_of_inPhaseRange {p : F64} (h : inPhaseRange p = true) : f64Le p (f64Flip f64Pi) = false := by
  simp only [inPhaseRange, f64Lt, f64Le, Bool.and_eq_true, Bool.and_eq_false_iff, decide_eq_true_eq,
    decide_eq_false_iff_not] at *
  omega

/-- A phase at or below -PI is not above PI. -/
theorem f64Lt_pi_of_le_negPi {p : F64} (h : f64Le p (f64Flip f64Pi) = true) : f64Lt f64Pi p = false := by
  have hkey : f64Key (f64Flip f64Pi) < f64Key f64Pi := by decide
  simp only [f64Lt, f64Le, Bool.and_eq_true, Bool.and_eq_false_iff, decide_eq_true_eq, decide_eq_false_iff_not] at *
  omega

/-- Each loop ends at once on a phase in range, whatever rounds it has left. -/
theorem wrapDown_of_inPhaseRange (N : Numerics) (n : Nat) {p : F64} (h : inPhaseRange p = true) :
    wrapDown N n p = p := by
  cases n with
  | zero => rfl
  | succ n => rw [wrapDown, f64Lt_pi_of_inPhaseRange h, if_neg Bool.false_ne_true]

theorem wrapUp_of_inPhaseRange (N : Numerics) (n : Nat) {p : F64} (h : inPhaseRange p = true) :
    wrapUp N n p = p := by
  cases n with
  | zero => rfl
  | succ n => rw [wrapUp, f64Le_negPi_of_inPhaseRange h, if_neg Bool.false_ne_true]

/-- When the loops end in range, their result is the phase. -/
theorem wrapPhase_of_loops {N : Numerics} {p q : F64} (h : wrapUp N 2 (wrapDown N 2 p) = q)
    (hq : inPhaseRange q = true) : wrapPhase N p = q := by
  simp only [wrapPhase, h, hq, Bool.or_true, if_true]

/-- One round of the first loop. -/
theorem wrapPhase_sub {N : Numerics} {p : F64} (hp : f64Lt f64Pi p = true)
    (h : inPhaseRange (N.sub p f64TwoPi) = true) : wrapPhase N p = N.sub p f64TwoPi := by
  refine wrapPhase_of_loops ?_ h
  rw [wrapDown, if_pos hp, wrapDown_of_inPhaseRange N _ h, wrapUp_of_inPhaseRange N _ h]

/-- One round of the second loop. -/
theorem wrapPhase_add {N : Numerics} {p : F64} (hp : f64Le p (f64Flip f64Pi) = true)
    (h : inPhaseRange (N.add p f64TwoPi) = true) : wrapPhase N p = N.add p f64TwoPi := by
  refine wrapPhase_of_loops ?_ h
  rw [wrapDown, f64Lt_pi_of_le_negPi hp, if_neg Bool.false_ne_true, wrapUp, if_pos hp,
    wrapUp_of_inPhaseRange N _ h]

/-- Settles O34: the loops' result is kept when it is a NaN or in range and replaced by a phase in range otherwise; -PI
takes one round up and TWO_PI one round down. -/
theorem phaseIsWrapped : Obligations.PhaseIsWrapped := by
  refine ⟨fun N p => ?_, fun N p => wrapPhase_of_inPhaseRange N, fun N p => wrapPhase_sub, fun N p => wrapPhase_add,
    ?_, ?_⟩
  · rcases wrapPhase_cases N p with ⟨-, h⟩ | ⟨-, -, h⟩
    · exact h
    · exact .inr h
  · have hadd : num64.add (f64Flip f64Pi) f64TwoPi = f64Pi := by decide +kernel
    rw [wrapPhase_add (by decide) (by rw [hadd]; decide), hadd]
  · have hsub : num64.sub f64TwoPi f64TwoPi = 0 := by decide +kernel
    rw [wrapPhase_sub (by decide) (by rw [hsub]; decide), hsub]

/-! ## The delay line -/

/-- One circular line of `T` entries with write index `w` holds the last samples of `xs`: the one of `k` pushes before
the newest is at (w - 1 - k) mod T, as far back as both reach (R196). -/
def Holds (T : Nat) (dl : List F64) (w : Nat) (xs : List F64) : Prop :=
  ∀ k, k < T → k < xs.length → dl.getD ((w + (T - 1 - k)) % T) 0 = xs.getD (xs.length - 1 - k) 0

/-- A push at the write index makes the new sample the newest and every other one older (R196). -/
theorem Holds.push {T : Nat} {dl : List F64} {w : Nat} {xs : List F64} {v : F64} (h : Holds T dl w xs)
    (hlen : dl.length = T) (hw : w < T) : Holds T (dl.set w v) ((w + 1) % T) (xs ++ [v]) := by
  intro k hk hlx
  rw [List.length_append, List.length_singleton] at hlx ⊢
  cases k with
  | zero =>
    have hidx : ((w + 1) % T + (T - 1 - 0)) % T = w := by
      rw [Nat.mod_add_mod, show w + 1 + (T - 1 - 0) = w + T by omega, Nat.add_mod_right, Nat.mod_eq_of_lt hw]
    rw [hidx, List.getD_eq_getElem?_getD, List.getElem?_set_self (by omega), List.getD_eq_getElem?_getD]
    simp
  | succ k =>
    have hidx : ((w + 1) % T + (T - 1 - (k + 1))) % T = (w + (T - 1 - k)) % T := by
      rw [Nat.mod_add_mod, show w + 1 + (T - 1 - (k + 1)) = w + (T - 1 - k) by omega]
    have hne : (w + (T - 1 - k)) % T ≠ w := by
      rcases Nat.lt_or_ge (w + (T - 1 - k)) T with hlt | hge
      · rw [Nat.mod_eq_of_lt hlt]; omega
      · rw [Nat.mod_eq_sub_mod hge, Nat.mod_eq_of_lt (by omega)]; omega
    have hold := h k (by omega) (by omega)
    rw [hidx, List.getD_eq_getElem?_getD, List.getElem?_set_ne (Ne.symm hne), ← List.getD_eq_getElem?_getD, hold,
      List.getD_append _ _ _ _ (by omega), show xs.length + 1 - 1 - (k + 1) = xs.length - 1 - k by omega]

/-- The hidden state after the pushes of a list of mixed samples. -/
def pushAll (T : Nat) (h : RxHidden) (xs : List (F64 × F64)) : RxHidden := xs.foldl (fun g p => push T p.1 p.2 g) h

theorem pushAll_concat (T : Nat) (h : RxHidden) (xs : List (F64 × F64)) (p : F64 × F64) :
    pushAll T h (xs ++ [p]) = push T p.1 p.2 (pushAll T h xs) := by
  rw [pushAll, List.foldl_append]; rfl

/-- What the pushes keep, and what they leave in the two lines, from any contents. -/
structure LastSamples (T : Nat) (taps : List F64) (xs : List (F64 × F64)) (g : RxHidden) : Prop where
  taps : g.taps = taps
  dlI : g.dlI.length = T
  dlQ : g.dlQ.length = T
  dlW : g.dlW < T
  holdsI : Holds T g.dlI g.dlW (xs.map Prod.fst)
  holdsQ : Holds T g.dlQ g.dlW (xs.map Prod.snd)

theorem lastSamples_pushAll {T : Nat} {h : RxHidden} (hI : h.dlI.length = T) (hQ : h.dlQ.length = T) (hW : h.dlW < T)
    (xs : List (F64 × F64)) : LastSamples T h.taps xs (pushAll T h xs) := by
  induction xs using List.reverseRecOn with
  | nil =>
    have hnil (dl : List F64) : Holds T dl h.dlW [] := fun _ _ hk => absurd hk (Nat.not_lt_zero _)
    exact ⟨rfl, hI, hQ, hW, hnil _, hnil _⟩
  | append_singleton xs p ih =>
    obtain ⟨taps, lenI, lenQ, lt, holdsI, holdsQ⟩ := ih
    rw [pushAll_concat]
    refine ⟨taps, List.length_set.trans lenI, List.length_set.trans lenQ, Nat.mod_lt _ (by omega), ?_, ?_⟩
    · rw [List.map_append]; exact holdsI.push lenI lt
    · rw [List.map_append]; exact holdsQ.push lenQ lt

/-- Over a line that holds `T` samples the filter runs over those, the newest times TAPS[0] (R198). -/
theorem firSum_of_holds (N : Numerics) {T : Nat} {taps dl : List F64} {w : Nat} {xs : List F64} (h : Holds T dl w xs)
    (hT : T ≤ xs.length) : firSum N T taps dl w =
      sumUp N ((List.range T).map fun k => N.mul (taps.getD k 0) (xs.getD (xs.length - 1 - k) 0)) := by
  refine congrArg (sumUp N) (List.map_congr_left fun k hk => ?_)
  rw [List.mem_range] at hk
  rw [h k hk (by omega)]

/-- Settles O35, by induction on the pushes. -/
theorem filterConvolvesTheLastSamples : Obligations.FilterConvolvesTheLastSamples := by
  intro N T h xs _ hI hQ hW hT
  obtain ⟨taps, -, -, -, holdsI, holdsQ⟩ := lastSamples_pushAll hI hQ hW xs
  have hlen (f : F64 × F64 → F64) : (xs.map f).length = xs.length := List.length_map _
  have hget (f : F64 × F64 → F64) (h0 : f (0, 0) = 0) (i : Nat) : (xs.map f).getD i 0 = f (xs.getD i (0, 0)) := by
    rw [← List.getD_map (f := f), h0]
  refine ⟨?_, ?_⟩
  · show firSum N T (pushAll T h xs).taps (pushAll T h xs).dlI (pushAll T h xs).dlW = _
    rw [firSum_of_holds N holdsI (by rwa [hlen]), taps, hlen]
    simp only [hget Prod.fst rfl]
  · show firSum N T (pushAll T h xs).taps (pushAll T h xs).dlQ (pushAll T h xs).dlW = _
    rw [firSum_of_holds N holdsQ (by rwa [hlen]), taps, hlen]
    simp only [hget Prod.snd rfl]

end Sys2Proof.Machine
end

section
/-! PROOFS. What an accepted PUSH_FRAME completes with (R37, R142, R150, R192, R238, R239, R257): the machine after the
frame, and which events each slot sets. -/

namespace Sys2Proof.Machine

/-! ## The counts of one slot and the events they set -/

theorem getLsbD_ipSet_bit (e : Event) (ip : BitVec 10) : (ipSet e ip).getLsbD e.bit = true := by
  simp only [getLsbD_ipSet, decide_true, Bool.or_true]

theorem getLsbD_ipSet_of_ne {e : Event} {ip : BitVec 10} {b : Nat} (h : b ≠ e.bit) :
    (ipSet e ip).getLsbD b = ip.getLsbD b := by
  rw [getLsbD_ipSet, decide_eq_false h, Bool.or_false]

/-- A saturating count went from `n` to `n'` while its event's bit went from `b` to `b'`: a move sets the bit, and only
a move sets it, a saturated count apart. -/
structure CountFlagged (n n' : Word) (b b' : Bool) : Prop where
  le : n.toNat ≤ n'.toNat
  kept : b = true → b' = true
  moved : n' ≠ n → b' = true
  cause : b' = true → b = true ∨ n' ≠ n ∨ n = 0xFFFFFFFF

/-- Nothing counted, and the bit kept. -/
theorem CountFlagged.same {n : Word} {b b' : Bool} (h : b' = b) : CountFlagged n n b b' :=
  ⟨le_rfl, fun hb => h.trans hb, fun hne => absurd rfl hne, fun hb => .inl (h ▸ hb)⟩

theorem CountFlagged.trans {n n' n'' : Word} {b b' b'' : Bool} (h : CountFlagged n n' b b')
    (h' : CountFlagged n' n'' b' b'') : CountFlagged n n'' b b'' := by
  obtain ⟨le, kept, moved, cause⟩ := h
  obtain ⟨le', kept', moved', cause'⟩ := h'
  have ne_of_lt {x y : Word} (hxy : x.toNat < y.toNat) : y ≠ x := fun e => absurd hxy (by rw [e]; exact lt_irrefl _)
  have lt_of_ne {x y : Word} (hle : x.toNat ≤ y.toNat) (hne : y ≠ x) : x.toNat < y.toNat :=
    lt_of_le_of_ne hle fun e => hne (BitVec.eq_of_toNat_eq e.symm)
  refine ⟨le.trans le', fun hb => kept' (kept hb), fun hne => ?_, fun hb => ?_⟩
  · by_cases hn : n' = n
    · exact moved' (hn ▸ hne)
    · exact kept' (moved hn)
  · rcases cause' hb with hb' | hn | hmax
    · rcases cause hb' with hb | hn | hmax
      · exact .inl hb
      · exact .inr (.inl (ne_of_lt (lt_of_lt_of_le (lt_of_ne le hn) le')))
      · exact .inr (.inr hmax)
    · exact .inr (.inl (ne_of_lt (lt_of_le_of_lt le (lt_of_ne le' hn))))
    · by_cases hn : n' = n
      · exact .inr (.inr (hn ▸ hmax))
      · exact .inr (.inl (ne_of_lt (lt_of_lt_of_le (lt_of_ne le hn) le')))

/-- One count with its event raised (R58, R59). -/
theorem CountFlagged.satInc {n : Word} {b b' : Bool} (h : b' = true) : CountFlagged n (satInc n) b b' := by
  unfold Machine.satInc
  split_ifs with hmax
  · exact ⟨le_rfl, fun _ => h, fun _ => h, fun _ => .inr (.inr hmax)⟩
  · have hlt : n.toNat < (n + 1).toNat := by bv_omega
    exact ⟨hlt.le, fun _ => h, fun _ => h, fun _ => .inr (.inl fun e => by rw [e] at hlt; exact lt_irrefl _ hlt)⟩

/-- AUD_OVF and NUM_FAULT follow the counts of dropped and guarded samples (R238, R239). -/
structure CountsFlagged (c t : Pipe) : Prop where
  audDrop : CountFlagged c.slot.regs.audDrop t.slot.regs.audDrop (c.ip.getLsbD 3) (t.ip.getLsbD 3)
  numFault : CountFlagged c.slot.regs.numFault t.slot.regs.numFault (c.ip.getLsbD 4) (t.ip.getLsbD 4)

theorem CountsFlagged.refl (c : Pipe) : CountsFlagged c c := ⟨.same rfl, .same rfl⟩

theorem CountsFlagged.trans {c d t : Pipe} (h : CountsFlagged c d) (h' : CountsFlagged d t) : CountsFlagged c t :=
  ⟨h.audDrop.trans h'.audDrop, h.numFault.trans h'.numFault⟩

/-- AUDIO is set exactly when a sample was stored: the write pointer advanced by `j` (R239). -/
def StoredFlagged (c t : Pipe) (j : Nat) : Prop :=
  t.slot.regs.audWptr = c.slot.regs.audWptr + BitVec.ofNat 32 j ∧
    t.ip.getLsbD 2 = (c.ip.getLsbD 2 || decide (0 < j))

/-- Nothing stored, and AUDIO kept. -/
theorem StoredFlagged.zero {c t : Pipe} (hw : t.slot.regs.audWptr = c.slot.regs.audWptr)
    (hb : t.ip.getLsbD 2 = c.ip.getLsbD 2) : StoredFlagged c t 0 :=
  ⟨hw.trans (BitVec.add_zero _).symm, hb.trans (Bool.or_false _).symm⟩

theorem StoredFlagged.trans {c d t : Pipe} {i j : Nat} (h : StoredFlagged c d i) (h' : StoredFlagged d t j) :
    StoredFlagged c t (i + j) := by
  obtain ⟨hw, hb⟩ := h
  obtain ⟨hw', hb'⟩ := h'
  refine ⟨by rw [hw', hw, BitVec.ofNat_add, BitVec.add_assoc], ?_⟩
  rw [hb', hb, Bool.or_assoc]
  congr 1
  rw [← Bool.decide_or]
  exact decide_eq_decide.2 (by omega)

/-- Fewer than 2^32 samples: the pointer moves exactly when one was stored. -/
theorem StoredFlagged.iff {c t : Pipe} {j : Nat} (h : StoredFlagged c t j) (hj : j < 2 ^ 32) :
    t.ip.getLsbD 2 = true ↔ c.ip.getLsbD 2 = true ∨ t.slot.regs.audWptr ≠ c.slot.regs.audWptr := by
  obtain ⟨hw, hb⟩ := h
  have hne : c.slot.regs.audWptr + BitVec.ofNat 32 j ≠ c.slot.regs.audWptr ↔ 0 < j := by
    constructor
    · intro hne
      by_contra h0
      obtain rfl : j = 0 := by omega
      exact hne (BitVec.add_zero _)
    · intro h0 he
      have hz : (BitVec.ofNat 32 j).toNat = 0 := congrArg BitVec.toNat (add_eq_left.1 he)
      rw [BitVec.toNat_ofNat, Nat.mod_eq_of_lt hj] at hz
      exact h0.ne' hz
  rw [hb, hw, hne, Bool.or_eq_true, decide_eq_true_eq]

/-- A push drops the sample and counts it, or stores it (R239). -/
theorem flagged_ringPush (depth k : Nat) (v : F32) (c : Pipe) :
    CountsFlagged c (ringPush depth k v c) ∧ ∃ j ≤ 1, StoredFlagged c (ringPush depth k v c) j := by
  rcases ringPush_cases depth k v c with ⟨-, e⟩ | ⟨-, e⟩ <;> rw [e]
  · exact ⟨⟨.satInc (getLsbD_ipSet_bit .audOvf _), .same (getLsbD_ipSet_of_ne (by decide))⟩, 0, Nat.zero_le _,
      .zero rfl (getLsbD_ipSet_of_ne (by decide))⟩
  · exact ⟨⟨.same (getLsbD_ipSet_of_ne (by decide)), .same (getLsbD_ipSet_of_ne (by decide))⟩, 1, le_rfl, rfl,
      (getLsbD_ipSet_bit .audio _).trans (Bool.or_true _).symm⟩

/-- The guard counts the sample it replaces, and stores nothing (R238). -/
theorem flagged_guarded (v : F32) (c : Pipe) : CountsFlagged c (guarded v c) ∧ StoredFlagged c (guarded v c) 0 := by
  unfold guarded
  split_ifs
  · exact ⟨.refl c, .zero rfl rfl⟩
  · exact ⟨⟨.same (getLsbD_ipSet_of_ne (by decide)), .satInc (getLsbD_ipSet_bit .numFault _)⟩,
      .zero rfl (getLsbD_ipSet_of_ne (by decide))⟩

theorem flagged_emit (N : Numerics) (depth k : Nat) (y : F64) (c : Pipe) :
    CountsFlagged c (emit N depth k y c) ∧ ∃ j ≤ 1, StoredFlagged c (emit N depth k y c) j := by
  rw [emit_eq]
  obtain ⟨hg, hg0⟩ := flagged_guarded (N.toF32 y) c
  obtain ⟨hp, j, hj, hpj⟩ := flagged_ringPush depth k (if f32IsFinite (N.toF32 y) then N.toF32 y else 0)
    (guarded (N.toF32 y) c)
  exact ⟨hg.trans hp, 0 + j, by omega, hg0.trans hpj⟩

/-- A pair stores at most one sample. -/
theorem flagged_iqPair (N : Numerics) (depth k j : Nat) (c : Pipe) :
    CountsFlagged c (iqPair N depth k c j) ∧ ∃ i ≤ 1, StoredFlagged c (iqPair N depth k c j) i := by
  cases h : c.slot.regs.outputDue with
  | false =>
    rw [iqPair_not_due h]
    exact ⟨⟨.same rfl, .same rfl⟩, 0, Nat.zero_le _, .zero rfl rfl⟩
  | true =>
    rw [iqPair_due h]
    obtain ⟨⟨hd, hf⟩, i, hi, hs⟩ := flagged_emit N depth k (dueSample N j c) (readyPipe N j c)
    exact ⟨⟨hd, hf⟩, i, hi, hs⟩

/-- `n` pairs store at most `n` samples. -/
theorem flagged_iqLoop (N : Numerics) (depth k n : Nat) (c : Pipe) :
    CountsFlagged c (iqLoop N depth k n c) ∧ ∃ i ≤ n, StoredFlagged c (iqLoop N depth k n c) i := by
  induction n with
  | zero => exact ⟨.refl c, 0, le_rfl, .zero rfl rfl⟩
  | succ n ih =>
    obtain ⟨hc, i, hi, hs⟩ := ih
    obtain ⟨hc', i', hi', hs'⟩ := flagged_iqPair N depth k n (iqLoop N depth k n c)
    rw [iqLoop_succ]
    exact ⟨hc.trans hc', i + i', by omega, hs.trans hs'⟩

/-! ## One frame of one slot -/

/-- Counting the frame and configuring commute (R199 steps 2 and 3). -/
theorem configure_counted (N : Numerics) (maxTaps : Nat) (pcf prate : F64) (x : RxSlot) :
    configure N maxTaps pcf prate (counted x) = (configure N maxTaps pcf prate x).map counted := by
  have hc (off q cut : F64) (taps : List F64) :
      configured N pcf prate off q cut taps (counted x) = counted (configured N pcf prate off q cut taps x) := rfl
  simp only [configure, hc, show (counted x).regs.cf = x.regs.cf from rfl,
    show (counted x).regs.outRate = x.regs.outRate from rfl, show (counted x).regs.bw = x.regs.bw from rfl,
    show (counted x).regs.nTaps = x.regs.nTaps from rfl]
  split_ifs
  · rfl
  · rfl
  · cases design N maxTaps x.regs.nTaps.toNat (N.div (N.div x.regs.bw f64Two) prate) <;> rfl

theorem configure_counted_error_iff {N : Numerics} {maxTaps : Nat} {pcf prate : F64} {x : RxSlot} {e : ConfigFault} :
    configure N maxTaps pcf prate (counted x) = .error e ↔ configure N maxTaps pcf prate x = .error e := by
  rw [configure_counted]
  cases configure N maxTaps pcf prate x <;> simp [Except.map]

/-- A configure touches no count of samples (R191). -/
theorem configure_counts {N : Numerics} {maxTaps : Nat} {pcf prate : F64} {x y : RxSlot}
    (h : configure N maxTaps pcf prate x = .ok y) :
    y.regs.audDrop = x.regs.audDrop ∧ y.regs.numFault = x.regs.numFault ∧ y.regs.audWptr = x.regs.audWptr := by
  obtain ⟨-, -, taps, -, rfl⟩ := configure_ok_iff.1 h
  exact ⟨rfl, rfl, rfl⟩

/-- The slot is processed, and the frame's parameters are not those it is configured for (R199 step 3). -/
def driftsOn (fr : FrameRegs) (x : RxSlot) : Prop :=
  x.regs.st = .unconfigured ∨
    x.regs.st = .configured ∧ (f64Ne fr.rate x.regs.prate = true ∨ f64Ne fr.cf x.regs.pcf = true)

/-- The frame's implicit configure of the slot fails (R192). -/
def failsOn (N : Numerics) (p : Params) (fr : FrameRegs) (x : RxSlot) : Prop :=
  driftsOn fr x ∧ ∃ e, configure N p.maxTaps fr.cf fr.rate x = .error e

theorem drifted_counted_iff {fr : FrameRegs} {x : RxSlot} :
    (counted x).regs.drifted fr = true ↔
      x.regs.st = .unconfigured ∨ f64Ne fr.rate x.regs.prate = true ∨ f64Ne fr.cf x.regs.pcf = true := by
  rw [RxRegs.drifted, Bool.or_eq_true, Bool.or_eq_true, decide_eq_true_eq, or_assoc]
  rfl

/-- Only an UNCONFIGURED or CONFIGURED slot is processed. -/
theorem live_iff {st : RxSt} : st = .unconfigured ∨ st = .configured ↔ st ≠ .empty ∧ st ≠ .stopped := by
  cases st <;> simp

theorem driftsOn_iff {fr : FrameRegs} {x : RxSlot} :
    driftsOn fr x ↔ (x.regs.st ≠ .empty ∧ x.regs.st ≠ .stopped) ∧ (counted x).regs.drifted fr = true := by
  rw [drifted_counted_iff, ← live_iff, driftsOn]
  by_cases h : x.regs.st = .unconfigured <;> simp [h]

/-- Which events one frame of a receiver sets. -/
structure FrameFlags (N : Numerics) (p : Params) (fr : FrameRegs) (x : RxSlot) (ip : BitVec 10) (c : Pipe) :
    Prop where
  audio : c.ip.getLsbD 2 = true ↔ ip.getLsbD 2 = true ∨ c.slot.regs.audWptr ≠ x.regs.audWptr
  audDrop : CountFlagged x.regs.audDrop c.slot.regs.audDrop (ip.getLsbD 3) (c.ip.getLsbD 3)
  numFault : CountFlagged x.regs.numFault c.slot.regs.numFault (ip.getLsbD 4) (c.ip.getLsbD 4)
  cfgFault : c.ip.getLsbD 5 = true ↔ ip.getLsbD 5 = true ∨ failsOn N p fr x

/-- The pairs of a frame, run on a slot with the counts of `x` whose configure did not fail. -/
theorem frameFlags_iqLoop {N : Numerics} {p : Params} {fr : FrameRegs} (k : Nat) {x z : RxSlot} (m : Memory)
    (ip : BitVec 10) (hz : z.regs.audDrop = x.regs.audDrop ∧ z.regs.numFault = x.regs.numFault ∧
      z.regs.audWptr = x.regs.audWptr) (hok : ¬ failsOn N p fr x) :
    FrameFlags N p fr x ip (iqLoop N p.audioDepth k fr.nPairs.toNat ⟨z, m, ip, 0⟩) := by
  obtain ⟨hdrop, hfault, hwptr⟩ := hz
  obtain ⟨hc, j, hj, hs⟩ := flagged_iqLoop N p.audioDepth k fr.nPairs.toNat ⟨z, m, ip, 0⟩
  refine ⟨hwptr ▸ hs.iff (lt_of_le_of_lt hj fr.nPairs.isLt), hdrop ▸ hc.audDrop, hfault ▸ hc.numFault, ?_⟩
  rw [(pairs_iqLoop N p.audioDepth k fr.nPairs.toNat ⟨z, m, ip, 0⟩).ipOther 5 (by decide)]
  exact ⟨.inl, fun h => h.resolve_right hok⟩

theorem frameFlags_processIQ (N : Numerics) (p : Params) (fr : FrameRegs) (k : Nat) {x : RxSlot} (m : Memory)
    (ip : BitVec 10) (hne : x.regs.st ≠ .empty) : FrameFlags N p fr x ip (processIQ N p fr k x m ip) := by
  rcases processIQ_cases N p fr k x m ip with ⟨hst, e⟩ | ⟨hns, ⟨err, hd, herr, e⟩ | ⟨z, -, hz, e⟩ | ⟨hd, e⟩⟩ <;> rw [e]
  · refine ⟨⟨.inl, fun h => h.resolve_right fun hw => hw rfl⟩, .same rfl, .same rfl,
      ⟨.inl, fun h => h.resolve_right fun hf => ?_⟩⟩
    exact (driftsOn_iff.1 hf.1).1.2 hst
  · have hfail : failsOn N p fr x := ⟨driftsOn_iff.2 ⟨⟨hne, hns⟩, hd⟩, err, configure_counted_error_iff.1 herr⟩
    refine ⟨?_, .same (getLsbD_ipSet_of_ne (by decide)), .same (getLsbD_ipSet_of_ne (by decide)),
      fun _ => .inr hfail, fun _ => getLsbD_ipSet_bit .cfgFault ip⟩
    rw [getLsbD_ipSet_of_ne (by decide)]
    exact ⟨.inl, fun h => h.resolve_right fun hw => hw rfl⟩
  · refine frameFlags_iqLoop k m ip (configure_counts (x := counted x) hz) fun hf => ?_
    obtain ⟨-, err, herr⟩ := hf
    rw [configure_counted_error_iff.2 herr] at hz
    cases hz
  · refine frameFlags_iqLoop k m ip ⟨rfl, rfl, rfl⟩ fun hf => ?_
    rw [(driftsOn_iff.1 hf.1).2] at hd
    cases hd

/-! ## The events over all slots -/

/-- If each receiver's frame sets an event only when `R` relates the slot before and after, the fan-out sets it only
when `R` relates some slot before and after. -/
theorem fanOut_flag_cause {N : Numerics} {p : Params} {fr : FrameRegs} {b : Nat} {R : RxSlot → RxSlot → Prop}
    (hR : ∀ x k m ip, x.regs.st ≠ .empty → (processIQ N p fr k x m ip).ip.getLsbD b = true →
      ip.getLsbD b = true ∨ R x (afterFrame (processIQ N p fr k x m ip)))
    (xs : List RxSlot) (k : Nat) (m : Memory) (ip : BitVec 10) (h : (fanOut N p fr k xs m ip).2.2.getLsbD b = true) :
    ip.getLsbD b = true ∨
      ∃ (j : Nat) (x y : RxSlot), xs[j]? = some x ∧ (fanOut N p fr k xs m ip).1[j]? = some y ∧ R x y := by
  induction xs generalizing k m ip with
  | nil => exact .inl h
  | cons x xs ih =>
    by_cases hx : x.regs.st = .empty
    · rw [fanOut_cons_empty hx] at h ⊢
      rcases ih _ _ _ h with hb | ⟨j, a, c, ha, hc, hr⟩
      · exact .inl hb
      · exact .inr ⟨j + 1, a, c, ha, hc, hr⟩
    · rw [fanOut_cons_live hx] at h ⊢
      rcases ih _ _ _ h with hb | ⟨j, a, c, ha, hc, hr⟩
      · exact (hR x k m ip hx hb).imp_right fun hr => ⟨0, x, _, rfl, rfl, hr⟩
      · exact .inr ⟨j + 1, a, c, ha, hc, hr⟩

/-- If each receiver's frame sets an event when `R` relates the slot before and after, so does the fan-out. -/
theorem fanOut_flag_set {N : Numerics} {p : Params} {fr : FrameRegs} {b : Nat} {R : RxSlot → RxSlot → Prop}
    (he : ∀ x : RxSlot, x.regs.st = .empty → ¬ R x x)
    (hR : ∀ x k m ip, x.regs.st ≠ .empty → R x (afterFrame (processIQ N p fr k x m ip)) →
      (processIQ N p fr k x m ip).ip.getLsbD b = true)
    (xs : List RxSlot) (k : Nat) (m : Memory) (ip : BitVec 10) {j : Nat} {x y : RxSlot} (hx : xs[j]? = some x)
    (hy : (fanOut N p fr k xs m ip).1[j]? = some y) (hr : R x y) : (fanOut N p fr k xs m ip).2.2.getLsbD b = true := by
  induction xs generalizing k m ip j with
  | nil => cases hx
  | cons a xs ih =>
    by_cases ha : a.regs.st = .empty
    · rw [fanOut_cons_empty ha] at hy ⊢
      cases j with
      | zero =>
        obtain ⟨rfl, rfl⟩ : a = x ∧ a = y := ⟨Option.some.inj hx, Option.some.inj hy⟩
        exact absurd hr (he a ha)
      | succ j => exact ih _ _ _ hx hy
    · rw [fanOut_cons_live ha] at hy ⊢
      cases j with
      | zero =>
        obtain ⟨rfl, rfl⟩ : a = x ∧ _ = y := ⟨Option.some.inj hx, Option.some.inj hy⟩
        exact (fanOut_frame N p fr xs (k + 1) _ _).2.1 b (hR a k m ip ha hr)
      | succ j => exact ih _ _ _ hx hy

/-! ## The machine after the frame -/

/-- Memory and IP when the fan-out starts, after the throttle and the spectrum (R257 step 4). -/
def fanMem (s : State) : Memory := (throttleAndSpectrum s.num (acceptFrame s)).mem

def fanIp (s : State) : BitVec 10 := (throttleAndSpectrum s.num (acceptFrame s)).ip

/-- The fan-out of an accepted frame. -/
def fanned (s : State) : List RxSlot × Memory × BitVec 10 :=
  fanOut s.num s.params s.frame 0 s.slots (fanMem s) (fanIp s)

/-- The machine after an accepted PUSH_FRAME. -/
def framePushed (s : State) : State :=
  ((fanOutStep s.num (throttleAndSpectrum s.num (acceptFrame s))).setResult (if s.specDue then 1 else 0)).complete none
    s.stTuple

theorem exec_pushFrame {s : State} (h : s.frameAccepted) : exec .pushFrame s = .next (framePushed s) := by
  obtain ⟨hconn, hpairs, hrate, hcf⟩ := h
  exact exec_ok Instr.noConfusion (pushFrameBody_ok_iff.2 ⟨hconn, hpairs, hrate, hcf, rfl⟩)

theorem fanOut_of_framePushed (s : State) :
    fanOut s.num (throttleAndSpectrum s.num (acceptFrame s)).params (throttleAndSpectrum s.num (acceptFrame s)).frame 0
      (throttleAndSpectrum s.num (acceptFrame s)).slots (fanMem s) (fanIp s) = fanned s := by
  obtain ⟨hp, hsl, -, -, -⟩ := sameSlots_throttleAndSpectrum s.num (acceptFrame s)
  rw [hp, hsl, throttleAndSpectrum_frame]
  rfl

theorem framePushed_slots (s : State) : (framePushed s).slots = (fanned s).1 := by
  rw [← fanOut_of_framePushed]; rfl

theorem framePushed_mem (s : State) : (framePushed s).mem = (fanned s).2.1 := by
  rw [← fanOut_of_framePushed]; rfl

/-- The completion adds CMD_DONE and STATE_CHANGE to the events of the frame. -/
theorem framePushed_ip (s : State) : ∃ moved, (framePushed s).ip = completeIp none moved (fanned s).2.2 := by
  rw [← fanOut_of_framePushed]
  exact ⟨_, rfl⟩

theorem getLsbD_framePushed_ip (s : State) {b : Nat} (h0 : b ≠ 0) (h9 : b ≠ 9) :
    (framePushed s).ip.getLsbD b = (fanned s).2.2.getLsbD b := by
  obtain ⟨moved, e⟩ := framePushed_ip s
  rw [e, getLsbD_completeIp]
  simp [h0, h9]

/-- Before the fan-out only SPEC_READY may have been set. -/
theorem getLsbD_fanIp (s : State) {b : Nat} (h : b ≠ 1) : (fanIp s).getLsbD b = s.ip.getLsbD b := by
  rw [fanIp, getLsbD_ip_throttleAndSpectrum]
  simp [h]

/-- The throttle writes THR_CNT, and a spectrum its descriptor, SPEC_MEM, IP and the draws (R142, R150). -/
theorem throttleAndSpectrum_eq (N : Numerics) (s : State) : ∃ m ip draws, throttleAndSpectrum N s = { s with
    thrCnt := if s.throttleDue then 0 else s.thrCnt + 1
    spec := if s.specDue then
        { seq := s.spec.seq + 1, n := BitVec.ofNat 32 s.fftSize, cf := s.frame.cf, rate := s.frame.rate,
          ts := s.frame.ts }
      else s.spec
    mem := m
    ip := ip
    drawCount := draws } := by
  rcases throttleAndSpectrum_cases N s with ⟨hd, e⟩ | ⟨hd, e⟩
  · exact ⟨_, _, _, by rw [e, if_pos hd]; rfl⟩
  · exact ⟨_, _, _, by rw [e, hd, if_neg Bool.false_ne_true]; rfl⟩

/-- The registers an accepted frame writes, and those it leaves. -/
theorem framePushed_eq (s : State) : framePushed s = { s with
    status := { busy := false, connected := s.status.connected, err := false, errCode := 0, errDetail := 0 }
    result := if s.specDue then 1 else 0
    cmdSeq := s.cmdSeq + 1
    thrCnt := if s.throttleDue then 0 else s.thrCnt + 1
    frameCount := s.frameCount + 1
    wbCf := s.frame.cf
    wbRate := s.frame.rate
    spec := if s.specDue then
        { seq := s.spec.seq + 1, n := BitVec.ofNat 32 s.fftSize, cf := s.frame.cf, rate := s.frame.rate,
          ts := s.frame.ts }
      else s.spec
    slots := (framePushed s).slots
    mem := (framePushed s).mem
    ip := (framePushed s).ip
    drawCount := (framePushed s).drawCount } := by
  obtain ⟨m, ip, draws, e⟩ := throttleAndSpectrum_eq s.num (acceptFrame s)
  unfold framePushed
  rw [e]
  rfl

/-! ## The events of the frame (R37) -/

/-- An accepted frame clears no event. -/
theorem framePushed_ip_kept {s : State} {b : Nat} (h0 : b ≠ 0) (h1 : b ≠ 1) (h9 : b ≠ 9)
    (h : s.ip.getLsbD b = true) : (framePushed s).ip.getLsbD b = true := by
  rw [getLsbD_framePushed_ip s h0 h9]
  exact (fanOut_frame _ _ _ _ _ _ _).2.1 b ((getLsbD_fanIp s h1).trans h)

/-- An event that a receiver's frame sets only when `R` relates the slot before and after. -/
theorem framePushed_flag_cause {s : State} {b : Nat} (h0 : b ≠ 0) (h1 : b ≠ 1) (h9 : b ≠ 9)
    {R : RxSlot → RxSlot → Prop}
    (hR : ∀ x ip c, FrameFlags s.num s.params s.frame x ip c → c.ip.getLsbD b = true →
      ip.getLsbD b = true ∨ R x (afterFrame c))
    (h : (framePushed s).ip.getLsbD b = true) :
    s.ip.getLsbD b = true ∨
      ∃ (k : Nat) (x y : RxSlot), s.slots[k]? = some x ∧ (framePushed s).slots[k]? = some y ∧ R x y := by
  rw [getLsbD_framePushed_ip s h0 h9] at h
  rw [← getLsbD_fanIp s h1, framePushed_slots]
  exact fanOut_flag_cause (fun x k m ip hne => hR x ip _ (frameFlags_processIQ _ _ _ k m ip hne)) _ _ _ _ h

/-- An event that a receiver's frame sets when `R` relates the slot before and after. -/
theorem framePushed_flag_set {s : State} {b : Nat} (h0 : b ≠ 0) (h9 : b ≠ 9) {R : RxSlot → RxSlot → Prop}
    (he : ∀ x : RxSlot, x.regs.st = .empty → ¬ R x x)
    (hR : ∀ x ip c, FrameFlags s.num s.params s.frame x ip c → R x (afterFrame c) → c.ip.getLsbD b = true)
    {k : Nat} {x y : RxSlot} (hx : s.slots[k]? = some x) (hy : (framePushed s).slots[k]? = some y) (hr : R x y) :
    (framePushed s).ip.getLsbD b = true := by
  rw [getLsbD_framePushed_ip s h0 h9]
  rw [framePushed_slots] at hy
  exact fanOut_flag_set he (fun x k m ip hne => hR x ip _ (frameFlags_processIQ _ _ _ k m ip hne)) _ _ _ _ hx hy hr

/-- SPEC_READY is set by a spectrum (R150). -/
theorem framePushed_specReady (s : State) :
    (framePushed s).ip.getLsbD 1 = (s.ip.getLsbD 1 || s.specDue) := by
  have hfan : (fanned s).2.2.getLsbD 1 = (fanIp s).getLsbD 1 := (fanOut_frame _ _ _ _ _ _ _).2.2.1 1 (by decide)
  rw [getLsbD_framePushed_ip s (by decide) (by decide), hfan, fanIp, getLsbD_ip_throttleAndSpectrum]
  exact congrArg (s.ip.getLsbD 1 || ·) (Bool.and_true _)

/-- AUDIO is set exactly by a move of a write pointer (R239). -/
theorem framePushed_audio (s : State) :
    (framePushed s).ip.getLsbD 2 = true ↔ s.ip.getLsbD 2 = true ∨ ∃ (k : Nat) (x y : RxSlot),
      s.slots[k]? = some x ∧ (framePushed s).slots[k]? = some y ∧ y.regs.audWptr ≠ x.regs.audWptr := by
  constructor
  · exact framePushed_flag_cause (by decide) (by decide) (by decide) (R := fun x y => y.regs.audWptr ≠ x.regs.audWptr)
      fun x ip c hf => hf.audio.1
  · rintro (h | ⟨k, x, y, hx, hy, hne⟩)
    · exact framePushed_ip_kept (by decide) (by decide) (by decide) h
    · exact framePushed_flag_set (by decide) (by decide) (R := fun x y => y.regs.audWptr ≠ x.regs.audWptr)
        (fun x _ hne => hne rfl) (fun x ip c hf hne => hf.audio.2 (.inr hne)) hx hy hne

/-- CFG_FAULT is set exactly by a failing implicit configure (R192). -/
theorem framePushed_cfgFault (s : State) :
    (framePushed s).ip.getLsbD 5 = true ↔ s.ip.getLsbD 5 = true ∨
      ∃ (k : Nat) (x : RxSlot), s.slots[k]? = some x ∧ failsOn s.num s.params s.frame x := by
  constructor
  · intro h
    refine (framePushed_flag_cause (by decide) (by decide) (by decide)
      (R := fun x _ => failsOn s.num s.params s.frame x) (fun x ip c hf => hf.cfgFault.1) h).imp_right ?_
    rintro ⟨k, x, -, hx, -, hf⟩
    exact ⟨k, x, hx, hf⟩
  · rintro (h | ⟨k, x, hx, hf⟩)
    · exact framePushed_ip_kept (by decide) (by decide) (by decide) h
    · have hk : k < (framePushed s).slots.length := by
        rw [framePushed_slots, fanned, fanOut_length]
        exact (List.getElem?_eq_some_iff.1 hx).1
      exact framePushed_flag_set (by decide) (by decide) (R := fun x _ => failsOn s.num s.params s.frame x)
        (fun x he hf => (driftsOn_iff.1 hf.1).1.1 he) (fun x ip c hc hf => hc.cfgFault.2 (.inr hf)) hx
        (List.getElem?_eq_getElem hk) hf

/-- Settles O26: the registers are those of the throttle, the spectrum and the completion; each slot's frame sets AUDIO,
AUD_OVF, NUM_FAULT and CFG_FAULT by its own causes, and the fan-out collects them. -/
theorem pushFrameCompletes : Obligations.PushFrameCompletes := by
  intro s hacc
  have hdue : s.throttleDue = decide (s.throttle.toNat ≤ s.thrCnt.toNat + 1) := rfl
  have hdone : s.specDue =
      decide (s.throttle.toNat ≤ s.thrCnt.toNat + 1 ∧ 2 ^ s.fftLog2n.toNat ≤ s.frame.nPairs.toNat) :=
    (Bool.decide_and _ _).symm
  have heq := framePushed_eq s
  rw [hacc.1, hdue, hdone] at heq
  simp only [decide_eq_true_eq] at heq
  refine ⟨framePushed s, exec_pushFrame hacc, heq, ?_, ?_, framePushed_audio s,
    fun k x y hx hy => ⟨fun hne => ?_, fun hne => ?_⟩, ?_, ?_, (framePushed_cfgFault s).trans ?_⟩
  · rw [framePushed_slots, fanned, fanOut_length]
  · rw [framePushed_specReady, hdone]
  · exact framePushed_flag_set (by decide) (by decide) (R := fun x y => y.regs.audDrop ≠ x.regs.audDrop)
      (fun x _ hne => hne rfl) (fun x ip c hf => hf.audDrop.moved) hx hy hne
  · exact framePushed_flag_set (by decide) (by decide) (R := fun x y => y.regs.numFault ≠ x.regs.numFault)
      (fun x _ hne => hne rfl) (fun x ip c hf => hf.numFault.moved) hx hy hne
  · exact framePushed_flag_cause (by decide) (by decide) (by decide)
      (R := fun x y => y.regs.audDrop ≠ x.regs.audDrop ∨ x.regs.audDrop = 0xFFFFFFFF)
      fun x ip c hf => hf.audDrop.cause
  · exact framePushed_flag_cause (by decide) (by decide) (by decide)
      (R := fun x y => y.regs.numFault ≠ x.regs.numFault ∨ x.regs.numFault = 0xFFFFFFFF)
      fun x ip c hf => hf.numFault.cause
  · refine or_congr_right (exists_congr fun k => exists_congr fun x => ?_)
    rw [exists_and_left, failsOn, driftsOn, exists_and_left]

end Sys2Proof.Machine
end

section
/-! PROOFS. What an accepted PUSH_FRAME does to each slot (R192, R199, R257 to R259): the slot, its ring and its events
are those of a loop over the pairs run on that slot alone, because no other slot and no spectrum touches FRAME_MEM or the
slot's ring (R90, R95, R258). -/

namespace Sys2Proof.Machine

/-! ## The bytes a slot may store to -/

/-- The bytes of slot `k`'s ring, AUD[k][0 .. AUDIO_DEPTH-1] (R95). -/
def inRing (depth k a : Nat) : Prop := audBase k ≤ a ∧ a < audBase k + 4 * depth

/-- A ring entry lies in the ring. -/
theorem audAddr_add_le {depth : Nat} (hd : 0 < depth) (k : Nat) (r : RxRegs) :
    audAddr depth k r + 4 ≤ audBase k + 4 * depth := by
  have := Nat.mod_lt r.audWptr.toNat hd
  unfold audAddr
  omega

/-- The rings of two slots are disjoint (R90). -/
theorem not_inRing_of_ne {depth i k a : Nat} (hd : depth ≤ 2 ^ 16) (hik : i ≠ k) (h : inRing depth k a) :
    ¬ inRing depth i a := by
  unfold inRing audBase at *
  omega

/-- FRAME_MEM lies below every ring (R90). -/
theorem not_inRing_of_lt {depth i a : Nat} (h : a < audBase 0) : ¬ inRing depth i a := by
  unfold inRing audBase at *
  omega

/-- The pairs of slot `k` store to its ring only. -/
theorem memRead8_iqLoop_outside (N : Numerics) {depth : Nat} (hd : 0 < depth) (k n : Nat) (c : Pipe) {a : Nat}
    (ha : ¬ inRing depth k a) : memRead8 (iqLoop N depth k n c).mem a = memRead8 c.mem a := by
  refine iqLoop_induct (fun d => memRead8 d.mem a = memRead8 c.mem a) rfl fun d j h => ?_
  rw [← h]
  cases hdue : d.slot.regs.outputDue with
  | false => rw [iqPair_not_due hdue]
  | true =>
    rw [iqPair_due hdue]
    show memRead8 (emit N depth k (dueSample N j d) (readyPipe N j d)).mem a = memRead8 (readyPipe N j d).mem a
    rcases (emits_emit N depth k (dueSample N j d) (readyPipe N j d)).stored with ⟨-, h1⟩ | ⟨-, h1⟩
    · have hlo := audBase_le_audAddr depth k (readyPipe N j d).slot.regs
      have hhi := audAddr_add_le hd k (readyPipe N j d).slot.regs
      exact h1 a (by unfold inRing at ha; omega)
    · rw [h1]

theorem memRead8_processIQ_outside (N : Numerics) {p : Params} (hd : 0 < p.audioDepth) (fr : FrameRegs) (k : Nat)
    (x : RxSlot) (m : Memory) (ip : BitVec 10) {a : Nat} (ha : ¬ inRing p.audioDepth k a) :
    memRead8 (processIQ N p fr k x m ip).mem a = memRead8 m a := by
  rcases processIQ_cases N p fr k x m ip with ⟨-, e⟩ | ⟨-, ⟨_, -, -, e⟩ | ⟨z, -, -, e⟩ | ⟨-, e⟩⟩ <;> rw [e]
  · exact memRead8_iqLoop_outside N hd k _ _ ha
  · exact memRead8_iqLoop_outside N hd k _ _ ha

/-- The fan-out from slot `k` on stores to the rings from `k` on only. -/
theorem memRead8_fanOut_outside (N : Numerics) {p : Params} (hd : 0 < p.audioDepth) (fr : FrameRegs) (xs : List RxSlot)
    (k : Nat) (m : Memory) (ip : BitVec 10) {a : Nat} (ha : ∀ i, k ≤ i → ¬ inRing p.audioDepth i a) :
    memRead8 (fanOut N p fr k xs m ip).2.1 a = memRead8 m a := by
  induction xs generalizing k m ip with
  | nil => rfl
  | cons x xs ih =>
    have hrest : ∀ i, k + 1 ≤ i → ¬ inRing p.audioDepth i a := fun i hi => ha i (by omega)
    by_cases hx : x.regs.st = .empty
    · rw [fanOut_cons_empty hx]
      exact ih _ _ _ hrest
    · rw [fanOut_cons_live hx]
      exact (ih _ _ _ hrest).trans (memRead8_processIQ_outside N hd fr k x m ip (ha k le_rfl))

/-- What the fan-out does at one receiver: it takes the frame with the memories and IP the slots before it left, which
agree with the first ones outside those slots' rings; the slots after it touch neither its ring nor its events. -/
theorem fanOut_at {N : Numerics} {p : Params} (hd : 0 < p.audioDepth) {fr : FrameRegs} {xs : List RxSlot} {k : Nat}
    {m : Memory} {ip : BitVec 10} {j : Nat} {x : RxSlot} (h : xs[j]? = some x) (hne : x.regs.st ≠ .empty) :
    ∃ m' ip',
      (∀ a, (∀ i, i < k + j → ¬ inRing p.audioDepth i a) → memRead8 m' a = memRead8 m a) ∧
      (fanOut N p fr k xs m ip).1[j]? = some (afterFrame (processIQ N p fr (k + j) x m' ip')) ∧
      (∀ a, (∀ i, k + j < i → ¬ inRing p.audioDepth i a) →
        memRead8 (fanOut N p fr k xs m ip).2.1 a = memRead8 (processIQ N p fr (k + j) x m' ip').mem a) ∧
      ∀ b, (processIQ N p fr (k + j) x m' ip').ip.getLsbD b = true →
        (fanOut N p fr k xs m ip).2.2.getLsbD b = true := by
  induction xs generalizing k m ip j with
  | nil => cases h
  | cons y xs ih =>
    cases j with
    | zero =>
      obtain rfl : y = x := Option.some.inj h
      rw [fanOut_cons_live hne]
      refine ⟨m, ip, fun _ _ => rfl, rfl, fun a ha => ?_, (fanOut_frame N p fr xs (k + 1) _ _).2.1⟩
      exact memRead8_fanOut_outside N hd fr xs (k + 1) _ _ fun i hi => ha i (by omega)
    | succ j =>
      have hj : xs[j]? = some x := h
      have hidx : k + 1 + j = k + (j + 1) := by omega
      by_cases hy : y.regs.st = .empty
      · obtain ⟨m', ip', hm, hat, hafter, hip⟩ := ih (k := k + 1) (m := m) (ip := ip) hj
        rw [hidx] at hm hat hafter hip
        rw [fanOut_cons_empty hy]
        exact ⟨m', ip', hm, hat, hafter, hip⟩
      · obtain ⟨m', ip', hm, hat, hafter, hip⟩ := ih (k := k + 1) (m := (processIQ N p fr k y m ip).mem)
          (ip := (processIQ N p fr k y m ip).ip) hj
        rw [hidx] at hm hat hafter hip
        rw [fanOut_cons_live hy]
        refine ⟨m', ip', fun a ha => (hm a ha).trans ?_, hat, hafter, hip⟩
        exact memRead8_processIQ_outside N hd fr k y m ip (ha k (by omega))

/-! ## Two runs of the pairs of one slot -/

/-- Two pipelines of slot `k` agree on the slot, on the frame of `n` pairs and on the slot's ring, and the second has
every event the first has. -/
structure Agree (depth k n : Nat) (c d : Pipe) : Prop where
  slot : d.slot = c.slot
  nout : d.nout = c.nout
  ip : ∀ b, c.ip.getLsbD b = true → d.ip.getLsbD b = true
  frame : ∀ a, frameBase ≤ a → a < frameBase + 8 * n → memRead8 d.mem a = memRead8 c.mem a
  ring : ∀ a, inRing depth k a → memRead8 d.mem a = memRead8 c.mem a

/-- Agreement does not depend on which slot both hold. -/
theorem Agree.withSlot {depth k n : Nat} {c d : Pipe} (h : Agree depth k n c d) (x : RxSlot) :
    Agree depth k n { c with slot := x } { d with slot := x } := ⟨rfl, h.nout, h.ip, h.frame, h.ring⟩

theorem Agree.withNout {depth k n : Nat} {c d : Pipe} (h : Agree depth k n c d) (o : Nat) :
    Agree depth k n { c with nout := o } { d with nout := o } := ⟨h.slot, rfl, h.ip, h.frame, h.ring⟩

theorem ipSet_mono (e : Event) {ip ip' : BitVec 10} (h : ∀ b, ip.getLsbD b = true → ip'.getLsbD b = true) (b : Nat)
    (hb : (ipSet e ip).getLsbD b = true) : (ipSet e ip').getLsbD b = true := by
  rw [getLsbD_ipSet, Bool.or_eq_true] at *
  exact hb.imp_left (h b)

theorem Agree.raise {depth k n : Nat} {c d : Pipe} (h : Agree depth k n c d) (e : Event) :
    Agree depth k n { c with ip := ipSet e c.ip } { d with ip := ipSet e d.ip } :=
  ⟨h.slot, h.nout, ipSet_mono e h.ip, h.frame, h.ring⟩

/-- The same word stored at the same address keeps two memories in agreement. -/
theorem memRead8_memWrite32_congr {m m' : Memory} {a : Nat} (h : memRead8 m' a = memRead8 m a) (b : Nat) (w : Word) :
    memRead8 (memWrite32 m' b w) a = memRead8 (memWrite32 m b w) a := by
  simp only [memWrite32, memRead8_memWrite8, h]

theorem Agree.store {depth k n : Nat} {c d : Pipe} (h : Agree depth k n c d) (b : Nat) (w : Word) :
    Agree depth k n { c with mem := memWrite32 c.mem b w } { d with mem := memWrite32 d.mem b w } :=
  ⟨h.slot, h.nout, h.ip, fun a h1 h2 => memRead8_memWrite32_congr (h.frame a h1 h2) b w,
    fun a ha => memRead8_memWrite32_congr (h.ring a ha) b w⟩

theorem Agree.ringPush {depth k n : Nat} {c d : Pipe} (h : Agree depth k n c d) (v : F32) :
    Agree depth k n (ringPush depth k v c) (ringPush depth k v d) := by
  have hs := h.slot
  rcases ringPush_cases depth k v c with ⟨hf, e⟩ | ⟨hf, e⟩ <;>
    rcases ringPush_cases depth k v d with ⟨hf', e'⟩ | ⟨hf', e'⟩ <;> rw [hs] at hf' e' <;> rw [e, e']
  · exact (h.withSlot _).raise .audOvf
  · exact absurd hf hf'
  · exact absurd hf' hf
  · exact ((h.withSlot _).store _ v).raise .audio

theorem Agree.guarded {depth k n : Nat} {c d : Pipe} (h : Agree depth k n c d) (v : F32) :
    Agree depth k n (guarded v c) (guarded v d) := by
  unfold Machine.guarded
  split_ifs
  · exact h
  · rw [h.slot]
    exact (h.withSlot _).raise .numFault

theorem Agree.emit {depth k n : Nat} {c d : Pipe} (h : Agree depth k n c d) (N : Numerics) (y : F64) :
    Agree depth k n (emit N depth k y c) (emit N depth k y d) := by
  rw [emit_eq, emit_eq]
  exact (h.guarded _).ringPush _

/-- Both pipelines read the same samples of the frame. -/
theorem Agree.frameWord {depth k n : Nat} {c d : Pipe} (h : Agree depth k n c d) {i : Nat} (hi : i < 2 * n) :
    frameWord d.mem i = frameWord c.mem i := by
  have hbyte (o : Nat) (ho : o < 4) : memRead8 d.mem (frameBase + 4 * i + o) = memRead8 c.mem (frameBase + 4 * i + o) :=
    h.frame _ (by omega) (by omega)
  simp only [Machine.frameWord, memRead32]
  rw [hbyte 3 (by omega), hbyte 2 (by omega), hbyte 1 (by omega),
    show memRead8 d.mem (frameBase + 4 * i) = _ from hbyte 0 (by omega)]
  rfl

theorem Agree.iqPair {depth k n : Nat} {c d : Pipe} (h : Agree depth k n c d) (N : Numerics) {j : Nat} (hj : j < n) :
    Agree depth k n (iqPair N depth k c j) (iqPair N depth k d j) := by
  have hI : frameI d.mem j = frameI c.mem j := congrArg f64OfF32 (h.frameWord (by omega))
  have hQ : frameQ d.mem j = frameQ c.mem j := congrArg f64OfF32 (h.frameWord (by omega))
  cases hdue : c.slot.regs.outputDue with
  | false =>
    rw [iqPair_not_due hdue, iqPair_not_due (by rw [h.slot]; exact hdue), hI, hQ, h.slot]
    exact h.withSlot _
  | true =>
    have hsample : dueSample N j d = dueSample N j c := by unfold dueSample; rw [hI, hQ, h.slot]
    have hready : Agree depth k n (readyPipe N j c) (readyPipe N j d) := by
      unfold readyPipe
      rw [hI, hQ, h.slot]
      exact h.withSlot _
    rw [iqPair_due hdue, iqPair_due (by rw [h.slot]; exact hdue), hsample, h.nout]
    exact (hready.emit N _).withNout _

/-- The pairs of the frame keep two pipelines in agreement (R258). -/
theorem Agree.iqLoop {depth k n : Nat} {c d : Pipe} (h : Agree depth k n c d) (N : Numerics) {i : Nat} (hi : i ≤ n) :
    Agree depth k n (iqLoop N depth k i c) (iqLoop N depth k i d) := by
  induction i with
  | zero => exact h
  | succ i ih =>
    rw [iqLoop_succ, iqLoop_succ]
    exact (ih (by omega)).iqPair N (by omega)

/-! ## The memories the slots find -/

/-- AUDIO_DEPTH is at least 1 (R6). -/
theorem audioDepth_pos {p : Params} (hp : p.Valid) : 0 < p.audioDepth := by
  obtain ⟨k, -, he⟩ := hp.audioDepth
  rw [he]
  positivity

/-- A spectrum is written below FRAME_MEM (R6, R38, R90, R149). -/
theorem memRead8_fanMem {s : State} (hp : s.params.Valid) (hc : s.ControlInv) {a : Nat} (ha : frameBase ≤ a) :
    memRead8 (fanMem s) a = memRead8 s.mem a := by
  have hsize : 2 ^ s.fftLog2n.toNat ≤ 2 ^ 16 :=
    Nat.pow_le_pow_right (by norm_num) (hc.log2n.2.trans hp.maxLog2n.2)
  unfold fanMem
  rcases throttleAndSpectrum_cases s.num (acceptFrame s) with ⟨-, e⟩ | ⟨-, e⟩ <;> rw [e]
  · rw [spectrum_mem, memRead8_memWriteWords_of_outside]
    · rfl
    · rw [specWords_length, spectrumDb_length]
      show a < specBase ∨ specBase + 4 * 2 ^ s.fftLog2n.toNat ≤ a
      unfold frameBase at ha
      unfold specBase
      omega
  · rfl

/-- What an accepted frame does to a receiver, in the terms of the pipeline of that slot. -/
theorem framePushed_at {s : State} (hd : 0 < s.params.audioDepth) {k : Nat} {x : RxSlot} (hx : s.slots[k]? = some x)
    (hne : x.regs.st ≠ .empty) :
    ∃ m ip,
      (∀ a, (∀ i, i < k → ¬ inRing s.params.audioDepth i a) → memRead8 m a = memRead8 (fanMem s) a) ∧
      (framePushed s).slots[k]? = some (afterFrame (processIQ s.num s.params s.frame k x m ip)) ∧
      (∀ a, (∀ i, k < i → ¬ inRing s.params.audioDepth i a) →
        memRead8 (framePushed s).mem a = memRead8 (processIQ s.num s.params s.frame k x m ip).mem a) ∧
      ∀ b, (processIQ s.num s.params s.frame k x m ip).ip.getLsbD b = true →
        (framePushed s).ip.getLsbD b = true := by
  obtain ⟨m, ip, hm, hat, hafter, hip⟩ :=
    fanOut_at (N := s.num) hd (fr := s.frame) (k := 0) (m := fanMem s) (ip := fanIp s) hx hne
  rw [Nat.zero_add] at hm hat hafter hip
  obtain ⟨moved, hcomp⟩ := framePushed_ip s
  refine ⟨m, ip, hm, by rw [framePushed_slots]; exact hat, fun a ha => by rw [framePushed_mem]; exact hafter a ha,
    fun b hb => ?_⟩
  rw [hcomp, getLsbD_completeIp, show (fanned s).2.2.getLsbD b = true from hip b hb]
  simp

/-- The last clause of R199: on a slot that is not drifted, or configures, the frame is the loop over its pairs. -/
theorem processIQ_eq_iqLoop {N : Numerics} {p : Params} {fr : FrameRegs} {k : Nat} {x z : RxSlot} {m : Memory}
    {ip : BitVec 10} (hlive : x.regs.st = .unconfigured ∨ x.regs.st = .configured)
    (hok : (counted x).regs.drifted fr = true → configure N p.maxTaps fr.cf fr.rate (counted x) = .ok z)
    (hsame : ¬ (counted x).regs.drifted fr = true → z = counted x) :
    processIQ N p fr k x m ip = iqLoop N p.audioDepth k fr.nPairs.toNat ⟨z, m, ip, 0⟩ := by
  rcases processIQ_cases N p fr k x m ip with ⟨hst, -⟩ | ⟨-, ⟨e, hd, he, -⟩ | ⟨z', hd, hz, h⟩ | ⟨hd, h⟩⟩
  · exact absurd hst (live_iff.1 hlive).2
  · cases he.symm.trans (hok hd)
  · rw [h, Except.ok.inj (hz.symm.trans (hok hd))]
  · rw [h, hsame (by rw [hd]; decide)]

/-- A processed slot's receiver stays, and the frame is counted (R53, R199). -/
theorem processIQ_sameReceiver (N : Numerics) (p : Params) (fr : FrameRegs) (k : Nat) {x : RxSlot} (m : Memory)
    (ip : BitVec 10) (hns : x.regs.st ≠ .stopped) :
    x.regs.sameReceiver (processIQ N p fr k x m ip).slot.regs ∧
      (processIQ N p fr k x m ip).slot.regs.frames = x.regs.frames + 1 := by
  have loop {z : RxSlot} (hz : x.regs.sameReceiver z.regs) (hf : z.regs.frames = x.regs.frames + 1) :
      x.regs.sameReceiver (iqLoop N p.audioDepth k fr.nPairs.toNat ⟨z, m, ip, 0⟩).slot.regs ∧
        (iqLoop N p.audioDepth k fr.nPairs.toNat ⟨z, m, ip, 0⟩).slot.regs.frames = x.regs.frames + 1 := by
    have hp := pairs_iqLoop N p.audioDepth k fr.nPairs.toNat ⟨z, m, ip, 0⟩
    exact ⟨RxRegs.sameReceiver_trans hz hp.same, hp.frames.trans hf⟩
  rcases processIQ_cases N p fr k x m ip with ⟨hst, -⟩ | ⟨-, ⟨_, -, -, e⟩ | ⟨z, -, hz, e⟩ | ⟨-, e⟩⟩
  · exact absurd hst hns
  · rw [e]
    exact ⟨RxRegs.sameReceiver_refl x.regs, rfl⟩
  · obtain ⟨hsame, -, -, hframes, -⟩ := configured_sameReceiver hz
    rw [e]
    exact loop hsame hframes
  · rw [e]
    exact loop (RxRegs.sameReceiver_refl x.regs) rfl

/-- A STOPPED slot only has its outputs counted, as none (R199 step 1). -/
theorem afterFrame_stopped (N : Numerics) (p : Params) (fr : FrameRegs) (k : Nat) {x : RxSlot} (m : Memory)
    (ip : BitVec 10) (hst : x.regs.st = .stopped) :
    afterFrame (processIQ N p fr k x m ip) = { x with regs := { x.regs with lastNout := 0 } } := by
  rw [processIQ, if_pos hst]
  rfl

/-- A failing implicit configure leaves the slot UNCONFIGURED with CFGERR, the frame counted (R192, R199 step 3). -/
theorem afterFrame_fails {N : Numerics} {p : Params} {fr : FrameRegs} (k : Nat) {x : RxSlot} (m : Memory)
    (ip : BitVec 10) {e : ConfigFault} (hd : driftsOn fr x) (he : configure N p.maxTaps fr.cf fr.rate x = .error e) :
    afterFrame (processIQ N p fr k x m ip) = { x with
      regs := { x.regs with frames := x.regs.frames + 1, st := .unconfigured, cfgErr := true, lastNout := 0 } } := by
  obtain ⟨⟨-, hns⟩, hdrift⟩ := driftsOn_iff.1 hd
  have herr := configure_counted_error_iff.2 he
  rcases processIQ_cases N p fr k x m ip with ⟨hst, -⟩ | ⟨-, ⟨_, -, -, h⟩ | ⟨z, -, hz, -⟩ | ⟨hnd, -⟩⟩
  · exact absurd hst hns
  · rw [h]; rfl
  · cases herr.symm.trans hz
  · cases hdrift.symm.trans hnd

/-- The loop over the pairs run on the slot alone gives the slot, the ring and the events the frame leaves (R258). -/
theorem framePushed_eq_iqLoop {s : State} {k : Nat} {x z : RxSlot} (hacc : s.frameAccepted) (hp : s.params.Valid)
    (hc : s.ControlInv) (hx : s.slots[k]? = some x) (hlive : x.regs.st = .unconfigured ∨ x.regs.st = .configured)
    (hok : (counted x).regs.drifted s.frame = true →
      configure s.num s.params.maxTaps s.frame.cf s.frame.rate (counted x) = .ok z)
    (hsame : ¬ (counted x).regs.drifted s.frame = true → z = counted x) :
    let c := iqLoop s.num s.params.audioDepth k s.frame.nPairs.toNat ⟨z, s.mem, 0, 0⟩
    (framePushed s).slots[k]? = some (afterFrame c) ∧
      (∀ b, c.ip.getLsbD b = true → (framePushed s).ip.getLsbD b = true) ∧
      ∀ a, inRing s.params.audioDepth k a → memRead8 (framePushed s).mem a = memRead8 c.mem a := by
  intro c
  have hdepth := audioDepth_le hp
  obtain ⟨m, ip, hm, hat, hafter, hip⟩ := framePushed_at (audioDepth_pos hp) hx (live_iff.1 hlive).1
  rw [processIQ_eq_iqLoop hlive hok hsame] at hat hafter hip
  have hn : s.frame.nPairs.toNat ≤ 524288 := hacc.2.1.trans hp.maxFramePairs.2
  have hstart : Agree s.params.audioDepth k s.frame.nPairs.toNat ⟨z, s.mem, 0, 0⟩ ⟨z, m, ip, 0⟩ := by
    refine ⟨rfl, rfl, fun b hb => by simp at hb, fun a h1 h2 => ?_, fun a ha => ?_⟩
    · have hbelow : a < audBase 0 := by unfold frameBase at h2; unfold audBase; omega
      exact (hm a fun i _ => not_inRing_of_lt hbelow).trans (memRead8_fanMem hp hc h1)
    · have habove : frameBase ≤ a := by have := ha.1; unfold audBase at this; unfold frameBase; omega
      exact (hm a fun i hi => not_inRing_of_ne hdepth hi.ne ha).trans (memRead8_fanMem hp hc habove)
  have hend := hstart.iqLoop s.num le_rfl
  refine ⟨hat.trans (congrArg some ?_), fun b hb => hip b (hend.ip b hb), fun a ha => ?_⟩
  · unfold afterFrame
    rw [hend.slot, hend.nout]
  · exact (hafter a fun i hi => not_inRing_of_ne hdepth hi.ne' ha).trans (hend.ring a ha)

/-- Settles O27, by the state of the slot: the fan-out leaves an EMPTY one, and any other goes through one of the four
ends of processIQ. -/
theorem pushFrameServesEverySlot : Obligations.PushFrameServesEverySlot := by
  intro s k x hacc hx
  have hslot := fanOut_slot (N := s.num) (p := s.params) (fr := s.frame) (k := 0) (m := fanMem s) (ip := fanIp s) hx
  rw [show fanOut s.num s.params s.frame 0 s.slots (fanMem s) (fanIp s) = fanned s from rfl, ← framePushed_slots]
    at hslot
  rcases hslot with ⟨he, hy⟩ | ⟨hne, m, ip, -, hy⟩
  · have hdead {P : Prop} (h : x.regs.st = .unconfigured ∨ x.regs.st = .configured) : P :=
      absurd he (live_iff.1 h).1
    refine ⟨framePushed s, x, exec_pushFrame hacc, hy, fun _ => rfl, fun h => ?_, hdead, fun h => ?_,
      fun _ _ h => hdead h⟩
    · cases he.symm.trans h
    · exact hdead (h.imp_right And.left)
  · refine ⟨framePushed s, _, exec_pushFrame hacc, hy, fun he => absurd he hne, afterFrame_stopped _ _ _ _ _ _,
      fun h => ?_, fun hd e he => ⟨?_, afterFrame_fails _ _ _ hd he⟩, fun hp hc hlive => ?_⟩
    · obtain ⟨⟨hcf, hbw, hout, htaps, hmode, hid, htag, hlabel, htagv, hlabelv, hrptr⟩, hframes⟩ :=
        processIQ_sameReceiver s.num s.params s.frame (0 + k) m ip (live_iff.1 h).2
      exact ⟨hframes, hcf, hbw, hout, htaps, hmode, hid, htag, hlabel, htagv, hlabelv, hrptr⟩
    · exact (framePushed_cfgFault s).2 (.inr ⟨k, x, hx, hd, e, he⟩)
    · intro count drifted z hok hsame c
      obtain ⟨hat, hip, hring⟩ := framePushed_eq_iqLoop hacc hp hc hx hlive
        (fun hd => hok (drifted_counted_iff.1 hd)) fun hd => hsame fun hd' => hd (drifted_counted_iff.2 hd')
      exact ⟨Option.some.inj (hy.symm.trans hat), hip, fun a h1 h2 => hring a ⟨h1, h2⟩⟩

end Sys2Proof.Machine
end

section
/-! PROOFS. The canonical form of memory (R90, R312): which operations write memory at all, and that those that do keep
the addresses rising. -/

namespace Sys2Proof.Machine

/-! ## What a host access does to memory -/

/-- No read touches memory (R99). -/
theorem busRead_mem_eq (N : Numerics) (a : Addr) (s : State) : (busRead N a s).mem = s.mem := by
  rcases busRead_cases N a s with ⟨-, h⟩ | ⟨-, w, h⟩ | ⟨-, -, h⟩ <;> rw [h] <;> rfl

/-- No register is backed by memory. -/
theorem writeCsr_mem (v : Word) (s : State) (r : Csr) : (writeCsr v s r).mem = s.mem := by
  cases r with
  | slot k q => rw [writeCsr]; split_ifs <;> rfl
  | _ => rfl

/-- Of the accepted writes only those to FRAME_MEM store to memory (R94, R97). -/
theorem wf_mem_acceptWrite {s : State} (hs : s.mem.wf) (a : Nat) (v : Word) : (acceptWrite a v s).mem.wf := by
  unfold acceptWrite
  cases windowOf s.params a with
  | csr => rwa [writeCsr_mem]
  | frame => exact memWrite32_wf _ _ _ hs
  | tap | spec | audio | unmapped => exact hs

theorem wf_mem_busWrite {s : State} (hs : s.mem.wf) (a : Addr) (v : Word) : (busWrite a v s).mem.wf := by
  rcases busWrite_cases a v s with ⟨-, h⟩ | ⟨-, -, -, h⟩ | ⟨-, -, h⟩ <;> rw [h]
  · exact hs
  · exact hs
  · exact wf_mem_acceptWrite hs a.toNat v

/-! ## What a command does to memory -/

/-- The spectrum stores consecutive words (R149). -/
theorem wf_mem_throttleAndSpectrum (N : Numerics) {s : State} (hs : s.mem.wf) : (throttleAndSpectrum N s).mem.wf := by
  rcases throttleAndSpectrum_cases N s with ⟨-, e⟩ | ⟨-, e⟩ <;> rw [e]
  · exact memWriteWords_wf _ _ _ hs
  · exact hs

/-- PUSH_FRAME stores the spectrum, then each slot's samples (R149, R239). -/
theorem wf_mem_pushFrameBody {N : Numerics} {s t : State} (hs : s.mem.wf) (h : pushFrameBody N s = .ok t) :
    t.mem.wf := by
  obtain ⟨-, -, -, -, rfl⟩ := pushFrameBody_ok_iff.1 h
  obtain ⟨-, -, -, hwf⟩ := fanOut_frame N (throttleAndSpectrum N (acceptFrame s)).params
    (throttleAndSpectrum N (acceptFrame s)).frame (throttleAndSpectrum N (acceptFrame s)).slots 0
    (throttleAndSpectrum N (acceptFrame s)).mem (throttleAndSpectrum N (acceptFrame s)).ip
  exact hwf (wf_mem_throttleAndSpectrum N (s := acceptFrame s) hs)

/-- Of the commands DESIGN_FIR and READ_TAPS store taps, PUSH_FRAME stores a spectrum and samples, and the others store
nothing (R175, R204, R257). -/
theorem wf_mem_commandBody {i : Instr} {s t : State} (hs : s.mem.wf) (h : commandBody i s = .ok t) : t.mem.wf := by
  cases i with
  | pushFrame => exact wf_mem_pushFrameBody hs h
  | designFir => obtain ⟨taps, -, rfl⟩ := designFirBody_ok_iff.1 h; exact writeTaps_wf _ taps hs
  | readTaps k => obtain ⟨x, -, -, rfl⟩ := readTapsBody_ok_iff.1 h; exact writeTaps_wf _ _ hs
  | nop | disconnect | softReset => obtain rfl := Except.ok.inj h; exact hs
  | connect => obtain ⟨-, -, rfl⟩ := connectBody_ok_iff.1 h; exact hs
  | setFft => obtain ⟨-, -, -, rfl⟩ := setFftBody_ok_iff.1 h; exact hs
  | addRx k => obtain ⟨-, -, -, -, -, -, -, rfl⟩ := addRxBody_ok_iff.1 h; exact hs
  | removeRx k => obtain ⟨-, -, ⟨-, rfl⟩ | ⟨-, rfl⟩⟩ := removeRxBody_ok_iff.1 h <;> exact hs
  | retuneRx k => obtain ⟨-, -, ⟨-, rfl⟩ | ⟨-, -, -, rfl⟩⟩ := retuneRxBody_ok_iff.1 h <;> exact hs
  | stopRx k => obtain ⟨-, -, -, rfl⟩ := stopRxBody_ok_iff.1 h; exact hs
  | configureRx k => obtain ⟨-, -, -, -, -, -, rfl⟩ := configureRxBody_ok_iff.1 h; exact hs

/-- A completion, with or without an error, stores nothing (R250, R282). -/
theorem wf_mem_exec {i : Instr} {s t : State} (hs : s.mem.wf) (h : exec i s = .next t) : t.mem.wf := by
  rcases exec_cases i s with ⟨-, e⟩ | ⟨-, ⟨u, hu, e⟩ | ⟨err, -, e⟩⟩ <;>
    obtain rfl := Host.Outcome.next.inj (e.symm.trans h)
  · exact hs
  · show u.mem.wf
    exact wf_mem_commandBody hs hu
  · exact hs

theorem wf_mem_engineTurn {s t : State} (hs : s.mem.wf) (h : engineTurn s = .next t) : t.mem.wf := by
  rcases engineTurn_cases s with ⟨-, e⟩ | ⟨-, ⟨err, -, e⟩ | ⟨i, -, e⟩⟩
  · obtain rfl := Host.Outcome.next.inj (e.symm.trans h); exact hs
  · obtain rfl := Host.Outcome.next.inj (e.symm.trans h); exact hs
  · exact wf_mem_exec hs (e.symm.trans h)

/-- Settles O57, by the event the step takes: a read and a reset leave memory alone, a host write stores at most one
word of FRAME_MEM, and a command stores at most taps, a spectrum or samples; every store keeps the form. -/
theorem stepKeepsMemoryCanonical : Obligations.StepKeepsMemoryCanonical := by
  intro s t hs h
  cases hev : s.hostEvents with
  | nil => exact wf_mem_engineTurn hs (step_nil hev ▸ h)
  | cons e es =>
    cases e with
    | read a =>
      obtain rfl := Host.Outcome.next.inj (step_read hev ▸ h)
      rwa [busRead_mem_eq]
    | write a v =>
      obtain rfl := Host.Outcome.next.inj (step_write hev ▸ h)
      exact wf_mem_busWrite (s := { s with hostEvents := es }) hs a v
    | rst =>
      obtain rfl := Host.Outcome.next.inj (step_rst hev ▸ h)
      exact hs
    | engine => exact wf_mem_engineTurn (s := { s with hostEvents := es }) hs (step_engine hev ▸ h)

end Sys2Proof.Machine
end

section
/-! PROOFS. The memories on the bus (20_memory.md): the address map, rejected accesses, reads and their draws,
FRAME_MEM, and the rings of AUD_MEM. -/

namespace Sys2Proof.Machine

/-! ## The address map (R90, R95) -/

/-- Where the four memories may lie: below the base of the next one, each ring within its 0x40000 bytes (R6, R90). -/
structure WindowBounds (p : Params) : Prop where
  tap : 8 * p.maxTaps ≤ 0x10000
  spec : 4 * 2 ^ p.maxLog2n ≤ 0x40000
  frame : 8 * p.maxFramePairs ≤ 0x400000
  ring : 4 * p.audioDepth ≤ 0x40000

theorem windowBounds_of_valid {p : Params} (hp : p.Valid) : WindowBounds p where
  tap := by have := hp.maxTaps; omega
  spec := by
    have : 2 ^ p.maxLog2n ≤ 2 ^ 16 := Nat.pow_le_pow_right (by decide) hp.maxLog2n.2
    omega
  frame := by have := hp.maxFramePairs; omega
  ring := by
    obtain ⟨k, hk, hdepth⟩ := hp.audioDepth
    have : 2 ^ k ≤ 2 ^ 16 := Nat.pow_le_pow_right (by decide) hk
    omega

/-- The ring an address lies in is its quotient by the distance of two rings (R90, R95). -/
theorem audio_quotient_iff {n depth a : Nat} (hd : 4 * depth ≤ 0x40000) :
    (audBase 0 ≤ a ∧ (a - audBase 0) / 0x40000 < n ∧ (a - audBase 0) % 0x40000 < 4 * depth) ↔
      ∃ k, k < n ∧ audBase k ≤ a ∧ a < audBase k + 4 * depth := by
  unfold audBase
  constructor
  · rintro ⟨hlo, hk, hoff⟩
    exact ⟨_, hk, by omega, by omega⟩
  · rintro ⟨k, hk, hlo, hhi⟩
    have hquot : (a - (0x800000 + 0x40000 * 0)) / 0x40000 = k := by omega
    exact ⟨by omega, hquot ▸ hk, by omega⟩

/-- Settles O43: the windows do not overlap, so the first that holds an address is the only one. -/
theorem addressMapWindows : Obligations.AddressMapWindows := by
  intro p a hp
  obtain ⟨htap, hspec, hframe, hring⟩ := windowBounds_of_valid hp
  show _ ∧ _ ∧ _ ∧ _ ∧ (_ ↔ ∃ k, k < p.numRx ∧ audBase k ≤ a ∧ a < audBase k + 4 * p.audioDepth)
  rw [← audio_quotient_iff hring]
  unfold windowOf tapBase specBase frameBase audBase
  refine ⟨?_, ?_, ?_, ?_, ?_⟩ <;> split_ifs <;> simp only [true_iff, false_iff] <;> omega

/-! ## Rejected accesses (R97, R286) -/

theorem badAddress_iff {p : Params} {a : Nat} : badAddress p a = true ↔ a % 4 ≠ 0 ∨ windowOf p a = .unmapped := by
  simp [badAddress]

theorem badWrite_iff {p : Params} {a : Nat} :
    badWrite p a = true ↔
      (a % 4 ≠ 0 ∨ windowOf p a = .unmapped) ∨ windowOf p a ∈ [Window.tap, Window.spec, Window.audio] := by
  simp [badWrite, badAddress, or_assoc]

/-- A register's write sets no event, and IP's clears some (R36, R37). -/
theorem ip_of_writeCsr {v : Word} {s : State} {r : Csr} {b : Nat} (h : (writeCsr v s r).ip.getLsbD b = true) :
    s.ip.getLsbD b = true := by
  cases r with
  | ip =>
    rw [writeCsr, clearIp_ip, ipClear, BitVec.getLsbD_and, Bool.and_eq_true] at h
    exact h.1
  | slot k q => rw [writeCsr] at h; split_ifs at h <;> exact h
  | _ => exact h

/-- A read of an aligned CSR offset is accepted (R97). -/
theorem busRead_csr_accepted (N : Numerics) {a : Addr} {s : State} (h4 : a.toNat % 4 = 0) (hlt : a.toNat < 0x1000) :
    (busRead N a s).herr = false ∧ (busRead N a s).ip = s.ip := by
  rw [busRead_csr h4 hlt]
  split_ifs <;> exact ⟨rfl, rfl⟩

/-- A write to an aligned CSR offset is accepted, or a hazard: it sets no BUS_ERR (R97, R315). -/
theorem busWrite_csr_accepted {a : Addr} {v : Word} {s : State} (h4 : a.toNat % 4 = 0) (hlt : a.toNat < 0x1000) :
    (busWrite a v s).herr = false ∧ ((busWrite a v s).ip.getLsbD 7 = true → s.ip.getLsbD 7 = true) := by
  rw [busWrite_csr h4 hlt]
  split_ifs
  · refine ⟨rfl, fun h => ?_⟩
    have hbits : (ipSet .hazard s.ip).getLsbD 7 = true := h
    rw [getLsbD_ipSet, Bool.or_eq_true] at hbits
    exact hbits.resolve_right (by decide)
  · exact ⟨rfl, fun h => ip_of_writeCsr h⟩

/-- Settles O44: R97's conditions are those of badAddress and badWrite, and no aligned CSR offset meets them. -/
theorem rejectedAccessesOnlyFlag : Obligations.RejectedAccessesOnlyFlag := by
  intro s a v es
  refine ⟨fun hbad hev => ?_, fun hbad hev => ?_, fun h4 hlt hev => ?_⟩
  · rw [step_read hev, busRead_bad (s := { s with hostEvents := es }) (badAddress_iff.2 hbad)]
    rfl
  · rw [step_write hev, busWrite_bad (s := { s with hostEvents := es }) (badWrite_iff.2 hbad)]
    rfl
  · rcases hev with hev | hev
    · obtain ⟨hherr, hip⟩ := busRead_csr_accepted s.num (s := { s with hostEvents := es }) h4 hlt
      exact ⟨_, step_read hev, hherr, fun h => hip ▸ h⟩
    · obtain ⟨hherr, hip⟩ := busWrite_csr_accepted (v := v) (s := { s with hostEvents := es }) h4 hlt
      exact ⟨_, step_write hev, hherr, hip⟩

/-! ## Reads (R99) -/

/-- Settles O51, by the three ends of a read. -/
theorem readsHaveNoSideEffect : Obligations.ReadsHaveNoSideEffect := by
  intro s a es hev
  refine ⟨_, step_read hev, ?_⟩
  rcases busRead_cases s.num a { s with hostEvents := es } with ⟨hb, h⟩ | ⟨hb, w, h⟩ | ⟨hb, -, h⟩ <;>
    rw [h, show badAddress s.params a.toNat = _ from hb] <;> rfl

/-! ## Reads and writes of the memories (R92 to R95, R98, R107) -/

/-- The engine writes every memory but FRAME_MEM. -/
theorem mem_engineMemories_iff {w : Window} :
    w ∈ [Window.tap, Window.spec, Window.audio] ↔
      w ∈ [Window.tap, Window.spec, Window.frame, Window.audio] ∧ w ≠ .frame := by
  cases w <;> decide

/-- The step of a read of a memory that is no draw: FRAME_MEM at any time, the others while BUSY = 0. -/
theorem step_read_mem {s : State} {a : Addr} {es : List HostEvent} (hev : s.hostEvents = .read a :: es)
    (h4 : a.toNat % 4 = 0)
    (hw : windowOf s.params a.toNat = .frame ∨
      s.status.busy = false ∧ windowOf s.params a.toNat ∈ [Window.tap, Window.spec, Window.audio]) :
    step s = .next { s with hostEvents := es, herr := false, hrdata := memRead32 s.mem a.toNat } := by
  have hmem : windowOf s.params a.toNat ∈ [Window.tap, Window.spec, Window.frame, Window.audio] := by
    rcases hw with h | ⟨-, h⟩
    · simp [h]
    · exact (mem_engineMemories_iff.1 h).1
  rw [step_read hev, busRead_mem (s := { s with hostEvents := es }) h4 hmem, if_neg]
  · rfl
  · rcases hw with h | ⟨h, -⟩ <;> simp [h]

/-- The step of a read of TAP_MEM, SPEC_MEM or AUD_MEM while BUSY = 1 (R107). -/
theorem step_read_mem_busy {s : State} {a : Addr} {es : List HostEvent} (hev : s.hostEvents = .read a :: es)
    (h4 : a.toNat % 4 = 0) (hbusy : s.status.busy = true)
    (hw : windowOf s.params a.toNat ∈ [Window.tap, Window.spec, Window.audio]) :
    step s = .next { s with
      hostEvents := es, herr := false, hrdata := Config.busyReadOpen s.drawCount, drawCount := s.drawCount + 1 } := by
  obtain ⟨hmem, hne⟩ := mem_engineMemories_iff.1 hw
  rw [step_read hev, busRead_mem (s := { s with hostEvents := es }) h4 hmem, if_pos (by simp [hbusy, hne])]
  rfl

/-- The low byte of a word is stored first (R98). -/
theorem memRead8_memWrite32_low (m : Memory) (a : Nat) (w : Word) :
    memRead8 (memWrite32 m a w) a = w.extractLsb' 0 8 := by
  simp [memWrite32, memRead8_memWrite8]

/-- Settles O49: a write to FRAME_MEM is one store, and a read that is no draw returns the word stored. -/
theorem frameMemHoldsWhatIsWritten : Obligations.FrameMemHoldsWhatIsWritten := by
  intro s a v es h4
  refine ⟨fun hw hb hev => ?_, fun hw hev => step_read_mem hev h4 hw⟩
  refine ⟨_, step_write hev, ?_⟩
  rw [busWrite_frame (s := { s with hostEvents := es }) h4 hw, if_neg (by simp [hb])]
  exact ⟨rfl, memRead32_memWrite32_same _ _ _, memRead8_memWrite32_low _ _ _,
    fun b hb => memRead8_memWrite32_of_outside _ _ _ _ hb⟩

/-! ## Reads of the registers while BUSY = 1 (R107) -/

theorem globalMap_isDraw : ∀ i < 0x100,
    ((globalMap.lookup (4 * i)).getD .reserved).isDraw =
      decide (4 * i = 0x020 ∨ 0x030 ≤ 4 * i ∧ 4 * i ≤ 0x058 ∨ 0x100 ≤ 4 * i ∧ 4 * i ≤ 0x11C) := by
  decide +kernel

/-- The offsets of the engine-written global registers (R107). -/
theorem isDraw_global_iff {n o : Nat} (h4 : o % 4 = 0) (hlt : o < 0x400) :
    (csrAt n o).isDraw = true ↔ o = 0x020 ∨ 0x030 ≤ o ∧ o ≤ 0x058 ∨ 0x100 ≤ o ∧ o ≤ 0x11C := by
  obtain ⟨i, rfl⟩ : ∃ i, o = 4 * i := ⟨o / 4, by omega⟩
  rw [csrAt_global hlt, globalMap_isDraw i (by omega), decide_eq_true_eq]

/-- Every aligned offset of a slot bank up to RX_FRAMES is a register (R50). -/
theorem slotMap_lookup_isSome : ∀ i < 0x1F, (slotMap.lookup (4 * i)).isSome = true := by decide

/-- Every register of a slot bank is a draw (R107). -/
theorem isDraw_slot {n k o : Nat} (h4 : o % 4 = 0) (hk : k < n) (hlo : 0x400 + 0x80 * k ≤ o)
    (hhi : o ≤ 0x400 + 0x80 * k + 0x78) : (csrAt n o).isDraw = true := by
  obtain ⟨i, rfl⟩ : ∃ i, o = 0x400 + 0x80 * k + 4 * i := ⟨(o - (0x400 + 0x80 * k)) / 4, by omega⟩
  obtain ⟨r, hr⟩ := Option.isSome_iff_exists.1 (slotMap_lookup_isSome i (by omega))
  rw [csrAt_slot hk (by omega), hr]
  rfl

/-- The step of a read of an engine-written register while BUSY = 1. -/
theorem step_read_csr_busy {s : State} {a : Addr} {es : List HostEvent} (hev : s.hostEvents = .read a :: es)
    (h4 : a.toNat % 4 = 0) (hlt : a.toNat < 0x1000) (hbusy : s.status.busy = true)
    (hdraw : (csrAt s.params.numRx a.toNat).isDraw = true) :
    step s = .next { s with
      hostEvents := es, herr := false, hrdata := Config.busyReadOpen s.drawCount, drawCount := s.drawCount + 1 } := by
  rw [step_read hev, busRead_csr (s := { s with hostEvents := es }) h4 hlt, if_pos (by rw [hbusy, hdraw]; rfl)]
  rfl

/-- Settles O52, by what the address selects: a memory, a global register or a register of a slot bank. -/
theorem busyReadsOfEngineStateAreDraws : Obligations.BusyReadsOfEngineStateAreDraws := by
  intro s a es hbusy hev h4
  refine ⟨fun h => ?_, fun hw => step_read_mem hev h4 (.inl hw), fun h => ?_⟩
  · rcases h with hw | hreg
    · exact step_read_mem_busy hev h4 hbusy hw
    · simp only [← or_assoc] at hreg
      rcases hreg with hglobal | ⟨k, hk, h16, hlo, hhi⟩
      · exact step_read_csr_busy hev h4 (by omega) hbusy ((isDraw_global_iff h4 (by omega)).2 (by omega))
      · exact step_read_csr_busy hev h4 (by omega) hbusy (isDraw_slot h4 hk hlo hhi)
  · have hexact : (csrAt s.params.numRx a.toNat).isDraw = false :=
      Bool.eq_false_of_not_eq_true fun hd => by
        have hoff := (isDraw_global_iff h4 (by omega)).1 hd
        omega
    exact step_read_csr hev h4 (by omega) (.inr hexact)

/-! ## The audio rings (R95, R239) -/

/-- The saturating increment, by the value of the counter. -/
theorem satInc_eq (n : Word) : satInc n = if n.toNat = 2 ^ 32 - 1 then n else n + 1 := by
  have hmax : n = 0xFFFFFFFF ↔ n.toNat = 2 ^ 32 - 1 := BitVec.toNat_inj.symm
  simp only [satInc, hmax]

/-- Settles O40, by whether the ring is full. -/
theorem ringStoresOrDrops : Obligations.RingStoresOrDrops := by
  intro depth k v c r a t
  rcases ringPush_cases depth k v c with ⟨hfull, h⟩ | ⟨hroom, h⟩
  · refine ⟨fun _ => ?_, fun hne => absurd hfull hne⟩
    rw [← satInc_eq]
    exact h
  · refine ⟨fun he => absurd he hroom, fun _ => ?_⟩
    have hmem : t.mem = memWrite32 c.mem a v := congrArg Pipe.mem h
    rw [hmem]
    exact ⟨h, memRead32_memWrite32_same _ _ _, fun b hb => memRead8_memWrite32_of_outside _ _ _ _ hb⟩

end Sys2Proof.Machine
end

section
/-! PROOFS. The encoding (R120 to R122, R129): the decoder accepts exactly the words of well-formed commands, the opcode
map by match and mask, and the first decode check that fails. -/

namespace Sys2Proof.Machine

/-! ## A row of the opcode map and its commands (R122) -/

/-- Every command is a row's command, with SLOT 0 unless the row is a slot command's. -/
theorem exists_instr (i : Instr) : ∃ (o : Opcode) (k : BitVec 8), (o.isSlot = false → k = 0) ∧ o.instr k = i :=
  ⟨i.opcode, i.slot?.getD 0, by cases i <;> simp [Instr.opcode, Instr.slot?, Opcode.isSlot], by cases i <;> rfl⟩

/-- A row's command carries SLOT exactly when the row is a slot command's. -/
theorem slot?_instr (o : Opcode) (k : BitVec 8) : (o.instr k).slot? = if o.isSlot then some k else none := by
  cases o <;> rfl

/-- The SLOT field of a command's word is the slot the decoder found, or 0. -/
theorem getD_slot?_instr {o : Opcode} {k : BitVec 8} (h : o.isSlot = false → k = 0) :
    (o.instr k).slot?.getD 0 = k := by
  rw [slot?_instr]
  cases hs : o.isSlot with
  | true => rfl
  | false => exact (h hs).symm

/-- Well-formedness in the decoder's terms (R121 step 4). -/
theorem wellFormed_instr_iff {numRx : Nat} (o : Opcode) (k : BitVec 8) :
    (o.instr k).wellFormed numRx = true ↔ (o.isSlot = true → k.toNat < numRx) := by
  unfold Instr.wellFormed
  rw [slot?_instr]
  cases o.isSlot <;> simp

/-! ## The decoder inverts the encoder (R120, R121) -/

theorem encode_instr {o : Opcode} {k : BitVec 8} (h : o.isSlot = false → k = 0) :
    encode (o.instr k) = (0 : BitVec 16) ++ k ++ o.byte := by
  unfold encode
  rw [getD_slot?_instr h, opcode_instr]

/-- A word decodes to a command exactly when it is the word of that command and the command is well formed. -/
theorem decode_ok_iff_encode {numRx : Nat} {w : Word} {i : Instr} :
    decode numRx w = .ok i ↔ i.wellFormed numRx = true ∧ encode i = w := by
  rw [decode_ok_iff]
  constructor
  · rintro ⟨o, ho, hrsv, hslot, hlegal, rfl⟩
    refine ⟨(wellFormed_instr_iff o _).2 hlegal, ?_⟩
    rw [encode_instr hslot, byte_of_opcodeOf ho, ← hrsv]
    exact (word_eq_fields w).symm
  · rintro ⟨hwf, rfl⟩
    obtain ⟨o, k, hk, rfl⟩ := exists_instr i
    obtain ⟨hopc, hslot, hrsv⟩ := Laws.fields_of_word k o.byte
    rw [encode_instr hk, hopc, hslot, hrsv]
    exact ⟨o, opcodeOf_byte o, rfl, hk, (wellFormed_instr_iff o k).1 hwf, rfl⟩

/-- Settles O1: a well-formed command's own word is the one that decodes to it. -/
theorem encodeThenDecode : Obligations.EncodeThenDecode :=
  fun _ _ hwf => decode_ok_iff_encode.2 ⟨hwf, rfl⟩

/-! ## The decode checks (R121) -/

theorem decode_badOpcode {numRx : Nat} {w : Word} (h : ∀ o : Opcode, o.byte ≠ opcOf w) :
    decode numRx w = .error .badOpcode := by
  cases ho : opcodeOf (opcOf w) with
  | none => unfold decode; rw [ho]
  | some o => exact absurd (byte_of_opcodeOf ho) (h o)

section
variable {numRx : Nat} {w : Word} {o : Opcode}

/-- The checks on a word whose OPC is a row's. -/
theorem decode_of_byte (ho : o.byte = opcOf w) : decode numRx w =
    if rsvOf w ≠ 0 then .error .rsvNonzero
    else if o.isSlot = false ∧ slotOf w ≠ 0 then .error .slotNonzero
    else if o.isSlot = true ∧ numRx ≤ (slotOf w).toNat then .error .badSlot
    else .ok (o.instr (slotOf w)) := by
  unfold decode
  rw [← ho, opcodeOf_byte]

theorem decode_rsvNonzero (ho : o.byte = opcOf w) (hr : rsvOf w ≠ 0) : decode numRx w = .error .rsvNonzero := by
  rw [decode_of_byte ho, if_pos hr]

theorem decode_slotNonzero (ho : o.byte = opcOf w) (hr : rsvOf w = 0) (hs : o.isSlot = false) (hk : slotOf w ≠ 0) :
    decode numRx w = .error .slotNonzero := by
  rw [decode_of_byte ho, if_neg (not_not.2 hr), if_pos ⟨hs, hk⟩]

theorem decode_badSlot (ho : o.byte = opcOf w) (hr : rsvOf w = 0) (hs : o.isSlot = true)
    (hk : numRx ≤ (slotOf w).toNat) : decode numRx w = .error .badSlot := by
  rw [decode_of_byte ho, if_neg (not_not.2 hr), if_neg (by simp [hs]), if_pos ⟨hs, hk⟩]

theorem decode_instr (ho : o.byte = opcOf w) (hr : rsvOf w = 0) (hk : o.isSlot = false → slotOf w = 0)
    (hlegal : o.isSlot = true → (slotOf w).toNat < numRx) : decode numRx w = .ok (o.instr (slotOf w)) :=
  decode_ok_iff.2 ⟨o, by rw [← ho, opcodeOf_byte], hr, hk, hlegal, rfl⟩

end

/-! ## Match and mask over the whole word (R122) -/

/-- The match value of a row: its OPC, and 0 in SLOT and RSV. -/
def matchWord (o : Opcode) : Word := (0 : BitVec 16) ++ (0 : BitVec 8) ++ o.byte

/-- The rows of slot commands, and the others. -/
def rowsOf (slotRows : Bool) : List Opcode := opcodeMap.filter fun o => o.isSlot == slotRows

theorem mem_rowsOf_iff {o : Opcode} {c : Bool} : o ∈ rowsOf c ↔ o.isSlot = c := by
  have hall : o ∈ opcodeMap := by cases o <;> decide
  simp [rowsOf, hall]

theorem fields_and (v w : Word) :
    opcOf (v &&& w) = opcOf v &&& opcOf w ∧ slotOf (v &&& w) = slotOf v &&& slotOf w ∧
      rsvOf (v &&& w) = rsvOf v &&& rsvOf w :=
  ⟨BitVec.extractLsb'_and, BitVec.extractLsb'_and, BitVec.extractLsb'_and⟩

/-- The mask of a slot command's row clears SLOT and keeps RSV and OPC. -/
theorem fields_and_slotMask (w : Word) :
    opcOf (w &&& 0xFFFF00FF) = opcOf w ∧ slotOf (w &&& 0xFFFF00FF) = 0 ∧ rsvOf (w &&& 0xFFFF00FF) = rsvOf w := by
  obtain ⟨hopc, hslot, hrsv⟩ := fields_and w 0xFFFF00FF
  rw [hopc, hslot, hrsv]
  exact ⟨BitVec.and_allOnes, BitVec.and_zero, BitVec.and_allOnes⟩

/-- A word matches a slot command's row exactly when its OPC is the row's and its RSV is 0. -/
theorem and_slotMask_eq_iff {w : Word} {o : Opcode} :
    w &&& 0xFFFF00FF = matchWord o ↔ opcOf w = o.byte ∧ rsvOf w = 0 := by
  obtain ⟨hopc, hslot, hrsv⟩ := fields_and_slotMask w
  constructor
  · intro h
    obtain ⟨hopc', -, hrsv'⟩ := Laws.fields_of_word 0 o.byte
    rw [← hopc, ← hrsv, h]
    exact ⟨hopc', hrsv'⟩
  · rintro ⟨ho, hr⟩
    rw [word_eq_fields (w &&& 0xFFFF00FF), hopc, hslot, hrsv, ho, hr]
    rfl

/-- A row that is no slot command's decodes at its match value alone. -/
theorem decode_matchWord {numRx : Nat} {w : Word} {o : Opcode} (hs : o.isSlot = false) (hw : w = matchWord o) :
    decode numRx w = .ok (o.instr 0) :=
  decode_ok_iff_encode.2
    ⟨(wellFormed_instr_iff o 0).2 fun ht => absurd ht (Bool.eq_false_iff.1 hs), hw ▸ encode_instr fun _ => rfl⟩

/-- A slot command's row decodes at its match value under the mask, when the slot exists. -/
theorem decode_and_slotMask {numRx : Nat} {w : Word} {o : Opcode} (hs : o.isSlot = true)
    (hrow : w &&& 0xFFFF00FF = matchWord o) (hlegal : (slotOf w).toNat < numRx) :
    decode numRx w = .ok (o.instr (slotOf w)) := by
  obtain ⟨hopc, hrsv⟩ := and_slotMask_eq_iff.1 hrow
  exact decode_instr hopc.symm hrsv (fun hf => absurd hs (Bool.eq_false_iff.1 hf)) fun _ => hlegal

/-- A word that decodes matches one of the rows. -/
theorem exists_row_of_decode {numRx : Nat} {w : Word} {i : Instr} (h : decode numRx w = .ok i) :
    (∃ o ∈ rowsOf false, matchWord o = w) ∨
      (∃ o ∈ rowsOf true, matchWord o = w &&& 0xFFFF00FF) ∧ (slotOf w).toNat < numRx := by
  obtain ⟨o, ho, hrsv, hslot, hlegal, -⟩ := decode_ok_iff.1 h
  have hopc : opcOf w = o.byte := (byte_of_opcodeOf ho).symm
  cases hs : o.isSlot with
  | false =>
    refine .inl ⟨o, mem_rowsOf_iff.2 hs, ?_⟩
    rw [word_eq_fields w, hrsv, hslot hs, hopc]
    rfl
  | true => exact .inr ⟨⟨o, mem_rowsOf_iff.2 hs, (and_slotMask_eq_iff.2 ⟨hopc, hrsv⟩).symm⟩, hlegal hs⟩

/-- Settles O2, row by row; the two lists of the last clause are the match values of the rows. -/
theorem opcodeMapByMatchAndMask : Obligations.OpcodeMapByMatchAndMask := by
  intro numRx w slot legal row
  refine ⟨decode_matchWord (o := .nop) rfl, decode_matchWord (o := .connect) rfl,
    decode_matchWord (o := .disconnect) rfl, decode_matchWord (o := .setFft) rfl,
    decode_matchWord (o := .softReset) rfl, decode_and_slotMask (o := .addRx) rfl,
    decode_and_slotMask (o := .removeRx) rfl, decode_and_slotMask (o := .retuneRx) rfl,
    decode_and_slotMask (o := .stopRx) rfl, decode_and_slotMask (o := .configureRx) rfl,
    decode_and_slotMask (o := .readTaps) rfl, decode_matchWord (o := .pushFrame) rfl,
    decode_matchWord (o := .designFir) rfl, ?_⟩
  rintro ⟨i, hi⟩
  rcases exists_row_of_decode hi with hglobal | ⟨hslot, hlegal⟩
  · exact .inl (List.mem_map (f := matchWord) |>.2 hglobal)
  · exact .inr ⟨List.mem_map (f := matchWord) |>.2 hslot, hlegal⟩

/-! ## The examples, and the step on a command word (R121, R129) -/

/-- Settles O3: the words of well-formed commands, and for each illegal word the check that rejects it. -/
theorem specEncodingExamples : Obligations.SpecEncodingExamples :=
  ⟨rfl, rfl, rfl, rfl, rfl, encodeThenDecode 16 .connect rfl, encodeThenDecode 16 (.addRx 3) rfl,
    decode_badOpcode (by intro o; cases o <;> decide), rfl, rfl,
    decode_rsvNonzero (o := .connect) rfl (by decide), rfl, rfl,
    decode_slotNonzero (o := .connect) rfl rfl rfl (by decide), rfl, rfl,
    decode_badSlot (o := .addRx) rfl rfl rfl (by decide), rfl,
    decode_badOpcode (by intro o; cases o <;> decide)⟩

/-- The engine's step on an illegal word is the error's completion. -/
theorem step_of_decode_error {s : State} {e : CmdError} (hev : s.hostEvents = []) (hbusy : s.status.busy = true)
    (h : decode s.params.numRx s.cmd = .error e) : step s = .next (s.failedWith (errCode e) (errDetail e)) := by
  rw [step_nil hev, engineTurn, if_pos hbusy, engineStep, fetchCommand, h, ← raiseError_eq_failedWith]

/-- The engine's step on a legal word is the command's. -/
theorem step_of_decode_ok {s : State} {i : Instr} (hev : s.hostEvents = []) (hbusy : s.status.busy = true)
    (h : decode s.params.numRx s.cmd = .ok i) : step s = exec i s := by
  rw [step_nil hev, engineTurn, if_pos hbusy, engineStep, fetchCommand, h]

theorem byte_injective : Function.Injective Opcode.byte := fun o o' h =>
  Option.some.inj (by rw [← opcodeOf_byte o, h, opcodeOf_byte o'])

/-- A row's OPC is listed with the slot commands' exactly when the row is one, and likewise with the others'. -/
theorem mem_bytes_iff {o : Opcode} {b : BitVec 8} {c : Bool} (ho : o.byte = b) :
    b ∈ (rowsOf c).map Opcode.byte ↔ o.isSlot = c := by
  rw [← ho, List.mem_map_of_injective byte_injective, mem_rowsOf_iff]

/-- The two lists hold the OPC of every row and nothing else. -/
theorem mem_bytes_or_iff {b : BitVec 8} :
    b ∈ (rowsOf false).map Opcode.byte ∨ b ∈ (rowsOf true).map Opcode.byte ↔ ∃ o : Opcode, o.byte = b := by
  constructor
  · rintro (hb | hb) <;> obtain ⟨o, -, ho⟩ := List.mem_map.1 hb <;> exact ⟨o, ho⟩
  · rintro ⟨o, ho⟩
    cases hs : o.isSlot with
    | false => exact .inl ((mem_bytes_iff ho).2 hs)
    | true => exact .inr ((mem_bytes_iff ho).2 hs)

/-- Settles O4: OPC names no row, or the one row whose remaining checks the decoder makes in order. -/
theorem decodeChecksInOrder : Obligations.DecodeChecksInOrder := by
  intro s hev hbusy opc slot rsv slotCommand defined
  have hdefined : defined ↔ ∃ o : Opcode, o.byte = opc := mem_bytes_or_iff
  have hslotCommand {o : Opcode} (ho : o.byte = opc) : slotCommand ↔ o.isSlot = true := mem_bytes_iff (c := true) ho
  have hglobal {o : Opcode} (ho : o.byte = opc) : ¬ slotCommand ↔ o.isSlot = false := by
    rw [hslotCommand ho, Bool.not_eq_true]
  refine ⟨fun hd => ?_, fun hd hr => ?_, fun hd hr hs hk => ?_, fun hd hr hs hk => ?_, fun hd hr hns hs => ?_⟩
  · exact step_of_decode_error hev hbusy (decode_badOpcode fun o ho => hd (hdefined.2 ⟨o, ho⟩))
  · obtain ⟨o, ho⟩ := hdefined.1 hd
    exact step_of_decode_error hev hbusy (decode_rsvNonzero ho hr)
  · obtain ⟨o, ho⟩ := hdefined.1 hd
    exact step_of_decode_error hev hbusy (decode_slotNonzero ho hr ((hglobal ho).1 hs) hk)
  · obtain ⟨o, ho⟩ := hdefined.1 hd
    exact step_of_decode_error hev hbusy (decode_badSlot ho hr ((hslotCommand ho).1 hs) hk)
  · obtain ⟨o, ho⟩ := hdefined.1 hd
    have hok : decode s.params.numRx s.cmd = .ok (o.instr slot) :=
      decode_instr ho hr (fun hf => hns ((hglobal ho).2 hf)) fun ht => hs ((hslotCommand ho).2 ht)
    refine ⟨o.instr slot, ?_, fun ht => ?_, step_of_decode_ok hev hbusy hok⟩
    · rw [opcode_instr, ho]
    · rw [slot?_instr, if_pos ((hslotCommand ho).1 ht)]

end Sys2Proof.Machine
end

section
/-! PROOFS. The operands of a command (R123): a command's rule commutes with overwriting the argument and descriptor
registers it does not read, and so does its completion. -/

namespace Sys2Proof.Machine

/-! ## Overwriting the argument and descriptor registers -/

/-- A state with other contents of the argument and descriptor registers (R43, R46). -/
def State.withOperands (a : ArgRegs) (f : FrameRegs) (s : State) : State := { s with args := a, frame := f }

section
variable {a : ArgRegs} {f : FrameRegs} {s : State}

@[simp] theorem withOperands_args : (s.withOperands a f).args = a := rfl
@[simp] theorem withOperands_frame : (s.withOperands a f).frame = f := rfl
@[simp] theorem withOperands_params : (s.withOperands a f).params = s.params := rfl
@[simp] theorem withOperands_status : (s.withOperands a f).status = s.status := rfl
@[simp] theorem withOperands_slots : (s.withOperands a f).slots = s.slots := rfl
@[simp] theorem withOperands_wbCf : (s.withOperands a f).wbCf = s.wbCf := rfl
@[simp] theorem withOperands_wbRate : (s.withOperands a f).wbRate = s.wbRate := rfl

/-- A command step ignores the overwritten registers when its rule does. -/
theorem runCommand_withOperands {body : State → Except CmdError State}
    (h : body (s.withOperands a f) = (body s).map (State.withOperands a f)) :
    runCommand body (s.withOperands a f) = (runCommand body s).withOperands a f := by
  unfold runCommand
  rw [h]
  cases body s <;> rfl

/-- A slot command ignores the overwritten registers when it does so on the slot it names. -/
theorem withSlot_withOperands {k : BitVec 8} {g g' : RxSlot → Except CmdError State}
    (h : ∀ x, g' x = (g x).map (State.withOperands a f)) :
    withSlot k (s.withOperands a f) g' = (withSlot k s g).map (State.withOperands a f) := by
  unfold withSlot
  rw [withOperands_slots]
  cases s.slots[k.toNat]? with
  | none => rfl
  | some x => exact h x

/-! ## The rules that read operands -/

theorem connectBody_withOperands (N : Numerics) (h : agreeOn .connect s.args a) :
    connectBody N (s.withOperands a f) = (connectBody N s).map (State.withOperands a f) := by
  obtain ⟨hcf, hrate⟩ := h
  simp only [connectBody, withOperands_args, ← hcf, ← hrate]
  split_ifs <;> rfl

theorem setFftBody_withOperands (h : agreeOn .setFft s.args a) :
    setFftBody (s.withOperands a f) = (setFftBody s).map (State.withOperands a f) := by
  obtain ⟨hlog, hthr⟩ := h
  simp only [setFftBody, withOperands_args, withOperands_params, ← hlog, ← hthr]
  split_ifs <;> rfl

theorem designFirBody_withOperands (N : Numerics) (h : agreeOn .designFir s.args a) :
    designFirBody N (s.withOperands a f) = (designFirBody N s).map (State.withOperands a f) := by
  obtain ⟨hn, hcut⟩ := h
  simp only [designFirBody, withOperands_args, withOperands_params, ← hn, ← hcut]
  cases design N s.params.maxTaps s.args.nTaps.toNat s.args.cutoff <;> rfl

/-- The checks of ADD_RX depend on its operands alone (R255). -/
theorem addChecks_congr {k : BitVec 8} {b : ArgRegs} (h : agreeOn (.addRx k) a b) (p : Params) :
    addChecks p b = addChecks p a := by
  obtain ⟨hcf, hbw, hout, hmode, hn, -⟩ := h
  unfold addChecks addTapCount
  rw [hcf, hbw, hout, hmode, hn]

/-- The slot ADD_RX makes depends on its operands alone (R255). -/
theorem newSlot_congr {k : BitVec 8} {b : ArgRegs} (h : agreeOn (.addRx k) a b) (p : Params) (m : Mode)
    (hid : RxHidden) : newSlot p b m hid = newSlot p a m hid := by
  obtain ⟨hcf, hbw, hout, -, hn, hident, htag, hlabel, hflags⟩ := h
  unfold newSlot addTapCount ArgRegs.hasTag ArgRegs.hasLabel
  rw [hcf, hbw, hout, hn, hident, htag, hlabel, hflags]

theorem addRxBody_withOperands (N : Numerics) (k : BitVec 8) (h : agreeOn (.addRx k) s.args a) :
    addRxBody N k (s.withOperands a f) = (addRxBody N k s).map (State.withOperands a f) := by
  refine withSlot_withOperands fun x => ?_
  simp only [withOperands_args, withOperands_params, withOperands_status, withOperands_wbCf, withOperands_wbRate,
    addChecks_congr h, newSlot_congr h]
  cases addChecks s.params s.args with
  | error e => dsimp only; split_ifs <;> rfl
  | ok m =>
    dsimp only
    cases configure N s.params.maxTaps s.wbCf s.wbRate (newSlot s.params s.args m x.hidden) <;>
      dsimp only <;> split_ifs <;> rfl

theorem retuneRxBody_withOperands (N : Numerics) (k : BitVec 8) (h : agreeOn (.retuneRx k) s.args a) :
    retuneRxBody N k (s.withOperands a f) = (retuneRxBody N k s).map (State.withOperands a f) := by
  have hcf : s.args.cf = a.cf := h
  refine withSlot_withOperands fun x => ?_
  simp only [withOperands_args, ← hcf]
  split_ifs <;> rfl

/-- Throttle and spectrum read no argument register (R142, R143). -/
theorem throttleAndSpectrum_withOperands (N : Numerics) (h : s.frame = f) :
    throttleAndSpectrum N (s.withOperands a f) = (throttleAndSpectrum N s).withOperands a f := by
  subst h
  have hdue : (s.withOperands a s.frame).specDue = s.specDue := rfl
  unfold throttleAndSpectrum
  rw [hdue]
  cases s.specDue <;> rfl

/-- The fan-out reads no argument register (R257 step 5). -/
theorem fanOutStep_withOperands (N : Numerics) (h : s.frame = f) :
    fanOutStep N (s.withOperands a f) = (fanOutStep N s).withOperands a f := by
  subst h
  rfl

theorem pushFrameBody_withOperands (N : Numerics) (h : agreeOnFrame .pushFrame s.frame f) :
    pushFrameBody N (s.withOperands a f) = (pushFrameBody N s).map (State.withOperands a f) := by
  obtain rfl : s.frame = f := h rfl
  have hthr : throttleAndSpectrum N (acceptFrame (s.withOperands a s.frame)) =
      (throttleAndSpectrum N (acceptFrame s)).withOperands a s.frame :=
    throttleAndSpectrum_withOperands (s := acceptFrame s) N rfl
  have hfan : fanOutStep N (throttleAndSpectrum N (acceptFrame (s.withOperands a s.frame))) =
      (fanOutStep N (throttleAndSpectrum N (acceptFrame s))).withOperands a s.frame :=
    hthr ▸ fanOutStep_withOperands N (throttleAndSpectrum_frame N (acceptFrame s))
  have hdue : (s.withOperands a s.frame).specDue = s.specDue := rfl
  unfold pushFrameBody
  rw [hfan, hdue, withOperands_status, withOperands_params, withOperands_frame]
  split_ifs <;> rfl

/-! ## The rules that read none -/

theorem configureRxBody_withOperands (N : Numerics) (k : BitVec 8) :
    configureRxBody N k (s.withOperands a f) = (configureRxBody N k s).map (State.withOperands a f) := by
  refine withSlot_withOperands fun x => ?_
  rw [withOperands_params, withOperands_status, withOperands_wbCf, withOperands_wbRate]
  cases configure N s.params.maxTaps s.wbCf s.wbRate x <;> dsimp only <;> split_ifs <;> rfl

theorem removeRxBody_withOperands (k : BitVec 8) :
    removeRxBody k (s.withOperands a f) = (removeRxBody k s).map (State.withOperands a f) := by
  refine withSlot_withOperands fun x => ?_
  split_ifs <;> rfl

theorem stopRxBody_withOperands (k : BitVec 8) :
    stopRxBody k (s.withOperands a f) = (stopRxBody k s).map (State.withOperands a f) := by
  refine withSlot_withOperands fun x => ?_
  split_ifs <;> rfl

theorem readTapsBody_withOperands (k : BitVec 8) :
    readTapsBody k (s.withOperands a f) = (readTapsBody k s).map (State.withOperands a f) := by
  refine withSlot_withOperands fun x => ?_
  split_ifs <;> rfl

/-! ## Every command -/

theorem commandBody_withOperands {i : Instr} (hr : i ≠ .softReset) (ha : agreeOn i s.args a)
    (hf : agreeOnFrame i s.frame f) :
    commandBody i (s.withOperands a f) = (commandBody i s).map (State.withOperands a f) := by
  cases i with
  | softReset => exact absurd rfl hr
  | nop => rfl
  | disconnect => rfl
  | connect => exact connectBody_withOperands _ ha
  | setFft => exact setFftBody_withOperands ha
  | addRx k => exact addRxBody_withOperands _ k ha
  | removeRx k => exact removeRxBody_withOperands k
  | retuneRx k => exact retuneRxBody_withOperands _ k ha
  | stopRx k => exact stopRxBody_withOperands k
  | configureRx k => exact configureRxBody_withOperands _ k
  | readTaps k => exact readTapsBody_withOperands k
  | pushFrame => exact pushFrameBody_withOperands _ hf
  | designFir => exact designFirBody_withOperands _ ha

end

/-- Settles O8: the rule and the completion commute with overwriting the registers the command does not read, and the
reset of SOFT_RESET forgets them. -/
theorem commandsReadOnlyTheirOperands : Obligations.CommandsReadOnlyTheirOperands := by
  refine ⟨fun i s t a f hr ha hf h => ?_, fun s a f => rfl⟩
  rw [exec_eq_runCommand s hr] at h
  obtain rfl := Host.Outcome.next.inj h
  rw [exec_eq_runCommand _ hr]
  exact congrArg Host.Outcome.next (runCommand_withOperands (commandBody_withOperands hr ha hf))

end Sys2Proof.Machine
end

section
/-! PROOFS. The memory an accepted PUSH_FRAME leaves (R90, R95, R149, R239, R257): each slot stores to the ring entries
its write pointer passes, and the spectrum lies shifted in SPEC[0 .. N-1]. -/

namespace Sys2Proof.Machine

/-! ## The ring entries a slot stores to (R95, R239) -/

/-- The byte lies outside the entry AUD[k][n mod AUDIO_DEPTH]. -/
def outsideEntry (depth k : Nat) (n : Word) (a : Nat) : Prop :=
  a < audBase k + 4 * (n.toNat % depth) ∨ audBase k + 4 * (n.toNat % depth) + 4 ≤ a

/-- From `c` to `t` slot `k` stored `j` samples, each to the entry its write pointer named. -/
structure Stores (depth k : Nat) (c t : Pipe) (j : Nat) : Prop where
  wptr : t.slot.regs.audWptr = c.slot.regs.audWptr + BitVec.ofNat 32 j
  kept : ∀ a, (∀ i < j, outsideEntry depth k (c.slot.regs.audWptr + BitVec.ofNat 32 i) a) →
    memRead8 t.mem a = memRead8 c.mem a

/-- Nothing stored. -/
theorem Stores.zero {depth k : Nat} {c t : Pipe} (hw : t.slot.regs.audWptr = c.slot.regs.audWptr)
    (hm : t.mem = c.mem) : Stores depth k c t 0 :=
  ⟨hw.trans (BitVec.add_zero _).symm, fun a _ => by rw [hm]⟩

theorem Stores.trans {depth k i j : Nat} {c d t : Pipe} (h : Stores depth k c d i) (h' : Stores depth k d t j) :
    Stores depth k c t (i + j) := by
  refine ⟨by rw [h'.wptr, h.wptr, BitVec.ofNat_add, BitVec.add_assoc], fun a ha => ?_⟩
  have hfirst := h.kept a fun n hn => ha n (by omega)
  refine (h'.kept a fun n hn => ?_).trans hfirst
  rw [h.wptr, BitVec.add_assoc, ← BitVec.ofNat_add]
  exact ha (i + n) (by omega)

/-- An emission stores one sample at the write pointer, or none (R239). -/
theorem stores_emit (N : Numerics) (depth k : Nat) (y : F64) (c : Pipe) :
    ∃ j ≤ 1, Stores depth k c (emit N depth k y c) j := by
  rcases (emits_emit N depth k y c).stored with ⟨hw, hm⟩ | ⟨hw, hm⟩
  · refine ⟨1, le_rfl, hw, fun a ha => hm a ?_⟩
    have hentry := ha 0 Nat.one_pos
    rw [BitVec.add_zero] at hentry
    exact hentry
  · exact ⟨0, Nat.zero_le _, .zero hw hm⟩

/-- A pair stores at most one sample: before it emits, it moves neither the write pointer nor memory. -/
theorem stores_iqPair (N : Numerics) (depth k n : Nat) (c : Pipe) :
    ∃ j ≤ 1, Stores depth k c (iqPair N depth k c n) j := by
  cases hdue : c.slot.regs.outputDue with
  | false =>
    rw [iqPair_not_due hdue]
    exact ⟨0, Nat.zero_le _, .zero rfl rfl⟩
  | true =>
    rw [iqPair_due hdue]
    obtain ⟨j, hj, hw, hm⟩ := stores_emit N depth k (dueSample N n c) (readyPipe N n c)
    exact ⟨j, hj, hw, hm⟩

theorem stores_iqLoop (N : Numerics) (depth k n : Nat) (c : Pipe) :
    ∃ j ≤ n, Stores depth k c (iqLoop N depth k n c) j := by
  induction n with
  | zero => exact ⟨0, le_rfl, .zero rfl rfl⟩
  | succ n ih =>
    obtain ⟨i, hi, hs⟩ := ih
    obtain ⟨j, hj, hs'⟩ := stores_iqPair N depth k n (iqLoop N depth k n c)
    rw [iqLoop_succ]
    exact ⟨i + j, by omega, hs.trans hs'⟩

/-- Only the pairs of a frame store, fewer than 2^32 samples. -/
theorem stores_processIQ (N : Numerics) (p : Params) (fr : FrameRegs) (k : Nat) (x : RxSlot) (m : Memory)
    (ip : BitVec 10) : ∃ j < 2 ^ 32, Stores p.audioDepth k ⟨x, m, ip, 0⟩ (processIQ N p fr k x m ip) j := by
  have loop {z : RxSlot} (hz : z.regs.audWptr = x.regs.audWptr) : ∃ j < 2 ^ 32, Stores p.audioDepth k ⟨x, m, ip, 0⟩
      (iqLoop N p.audioDepth k fr.nPairs.toNat ⟨z, m, ip, 0⟩) j := by
    obtain ⟨j, hj, hs⟩ := stores_iqLoop N p.audioDepth k fr.nPairs.toNat ⟨z, m, ip, 0⟩
    have hstart : Stores p.audioDepth k ⟨x, m, ip, 0⟩ ⟨z, m, ip, 0⟩ 0 := .zero hz rfl
    exact ⟨0 + j, by have := fr.nPairs.isLt; omega, hstart.trans hs⟩
  rcases processIQ_cases N p fr k x m ip with ⟨-, e⟩ | ⟨-, ⟨_, -, -, e⟩ | ⟨z, -, hz, e⟩ | ⟨-, e⟩⟩ <;> rw [e]
  · exact ⟨0, by norm_num, .zero rfl rfl⟩
  · exact ⟨0, by norm_num, .zero rfl rfl⟩
  · exact loop (configure_counts hz).2.2
  · exact loop rfl

/-- With fewer than 2^32 samples, the entries the pointer passed are those of the pointers between its two values. -/
theorem Stores.memRead8 {depth k j : Nat} {c t : Pipe} (h : Stores depth k c t j) (hj : j < 2 ^ 32) {a : Nat}
    (ha : outsideStores depth k c.slot.regs.audWptr t.slot.regs.audWptr a) : memRead8 t.mem a = memRead8 c.mem a := by
  have hdiff (i : Nat) (hi : i < 2 ^ 32) :
      (c.slot.regs.audWptr + BitVec.ofNat 32 i - c.slot.regs.audWptr).toNat = i := by
    rw [add_sub_cancel_left, BitVec.toNat_ofNat, Nat.mod_eq_of_lt hi]
  refine h.kept a fun i hi => ha _ ?_
  rw [h.wptr, hdiff i (by omega), hdiff j hj]
  exact hi

/-- The fan-out stores to the ring entries its slots' write pointers passed. -/
theorem memRead8_fanOut_of_outsideStores {N : Numerics} {p : Params} {fr : FrameRegs} {xs : List RxSlot} {k : Nat}
    {m : Memory} {ip : BitVec 10} {a : Nat}
    (ha : ∀ (j : Nat) (x y : RxSlot), xs[j]? = some x → (fanOut N p fr k xs m ip).1[j]? = some y →
      outsideStores p.audioDepth (k + j) x.regs.audWptr y.regs.audWptr a) :
    memRead8 (fanOut N p fr k xs m ip).2.1 a = memRead8 m a := by
  induction xs generalizing k m ip with
  | nil => rfl
  | cons x xs ih =>
    have hidx (j : Nat) : k + 1 + j = k + (j + 1) := by omega
    by_cases hx : x.regs.st = .empty
    · rw [fanOut_cons_empty hx] at ha ⊢
      exact ih fun j y z hy hz => hidx j ▸ ha (j + 1) y z hy hz
    · rw [fanOut_cons_live hx] at ha ⊢
      obtain ⟨j, hj, hs⟩ := stores_processIQ N p fr k x m ip
      exact (ih fun j y z hy hz => hidx j ▸ ha (j + 1) y z hy hz).trans (hs.memRead8 hj (ha 0 x (afterFrame _) rfl rfl))

/-! ## The bytes of the spectrum (R149) -/

/-- The memory the slots find is the one before the frame, with the spectrum when one is due. -/
theorem fanMem_eq (s : State) : fanMem s =
    if s.specDue then
      memWriteWords s.mem specBase (specWords s.num s.drawCount (spectrumDb s.num s.fftLog2n.toNat s.mem))
    else s.mem := by
  unfold fanMem
  rcases throttleAndSpectrum_cases s.num (acceptFrame s) with ⟨hd, e⟩ | ⟨hd, e⟩
  · rw [e, if_pos (show s.specDue = true from hd)]; rfl
  · rw [e, show s.specDue = false from hd]; rfl

/-- The number of words of a spectrum is N. -/
theorem length_specWords_spectrumDb (N : Numerics) (draw b : Nat) (m : Memory) :
    (specWords N draw (spectrumDb N b m)).length = 2 ^ b := by rw [specWords_length, spectrumDb_length]

/-- A spectrum is written to SPEC[0 .. N-1] only. -/
theorem memRead8_fanMem_of_outside {s : State} {a : Nat}
    (ha : s.specDue = true → a < specBase ∨ specBase + 4 * s.fftSize ≤ a) :
    memRead8 (fanMem s) a = memRead8 s.mem a := by
  rw [fanMem_eq]
  split_ifs with hd
  · exact memRead8_memWriteWords_of_outside _ _ _ _ (by rw [length_specWords_spectrumDb]; exact ha hd)
  · rfl

/-- Settles O28: the spectrum is written first, to SPEC[0 .. N-1], then each slot stores to the entries its write
pointer passes. -/
theorem pushFrameMemoryFrame : Obligations.PushFrameMemoryFrame := by
  intro s hacc
  refine ⟨framePushed s, exec_pushFrame hacc, fun a hspec haud => ?_⟩
  rw [framePushed_slots] at haud
  have hfan : memRead8 (fanned s).2.1 a = memRead8 (fanMem s) a :=
    memRead8_fanOut_of_outsideStores fun k x y hx hy => by
      rw [Nat.zero_add]
      exact haud k x y hx hy
  rw [framePushed_mem, hfan, memRead8_fanMem_of_outside hspec]

/-! ## The words of the spectrum (R148, R149) -/

/-- SPEC[i] as stored is the dB value of bin (i + N/2) mod N (R149). -/
theorem specWords_spectrumDb_getElem? (N : Numerics) (draw : Nat) {b i : Nat} (m : Memory) (hi : i < 2 ^ b) :
    (specWords N draw (spectrumDb N b m))[i]? = some (specWord N (draw + i)
      (decibel N (amplitude N (transform N b (windowed N m (2 ^ b))) ((i + 2 ^ b / 2) % 2 ^ b)))) := by
  simp [specWords, spectrumDb, hi]

theorem specWord_of_not_nan {N : Numerics} {draw : Nat} {x : F64} (h : f64IsNaN x = false) :
    specWord N draw x = N.toF32 x := by
  rw [specWord, h, if_neg Bool.false_ne_true]

/-- The fields of a binary32 datum with the exponent of infinity. -/
theorem toNat_f32_maxExponent (sign : BitVec 1) (frac : BitVec 23) :
    (sign ++ (0xFF : BitVec 8) ++ frac).toNat = 2 ^ 31 * sign.toNat + f32InfBits + frac.toNat := by
  rw [BitVec.toNat_append, ← Nat.shiftLeft_add_eq_or_of_lt frac.isLt, BitVec.toNat_append,
    ← Nat.shiftLeft_add_eq_or_of_lt (BitVec.isLt _)]
  simp only [Nat.shiftLeft_eq, BitVec.reduceToNat, f32InfBits]
  ring

/-- The fraction of a drawn NaN is not zero, so the datum lies above infinity whatever the draw (I3). -/
theorem f32NaNOf_above_inf (d : BitVec 24) : f32InfBits < (f32NaNOf d).toNat % 2 ^ 31 := by
  have hfrac (f : BitVec 23) : 0 < (if f = 0 then (0x400000 : BitVec 23) else f).toNat := by
    split_ifs with h
    · decide
    · bv_omega
  have hpos := hfrac (d.extractLsb' 0 23)
  have hlt := (if d.extractLsb' 0 23 = 0 then (0x400000 : BitVec 23) else d.extractLsb' 0 23).isLt
  unfold f32NaNOf
  rw [toNat_f32_maxExponent]
  unfold f32InfBits
  omega

/-- Below the rings memory after the frame is that after the spectrum (R90). -/
theorem memRead8_framePushed_below (s : State) {a : Nat} (ha : a < audBase 0) :
    memRead8 (framePushed s).mem a = memRead8 (fanMem s) a := by
  rw [framePushed_mem]
  exact (fanOut_frame _ _ _ _ _ _ _).1 a ha

theorem memRead32_congr {m m' : Memory} {a : Nat} (h : ∀ b, a ≤ b → b < a + 4 → memRead8 m' b = memRead8 m b) :
    memRead32 m' a = memRead32 m a := by
  unfold memRead32
  rw [h (a + 3) (by omega) (by omega), h (a + 2) (by omega) (by omega), h (a + 1) (by omega) (by omega),
    h a (by omega) (by omega)]

/-- The largest spectrum ends below the rings (R6, R38, R90). -/
theorem specEnd_le {s : State} (hp : s.params.Valid) (hc : s.ControlInv) : specBase + 4 * s.fftSize ≤ audBase 0 := by
  have hsize : s.fftSize ≤ 2 ^ 16 := Nat.pow_le_pow_right (by norm_num) (hc.log2n.2.trans hp.maxLog2n.2)
  unfold specBase audBase
  omega

/-- SPEC[i] after an accepted frame that gives a spectrum. -/
theorem memRead32_framePushed_spec {s : State} (hdue : s.specDue = true) (hp : s.params.Valid) (hc : s.ControlInv)
    {i : Nat} (hi : i < s.fftSize) : memRead32 (framePushed s).mem (specBase + 4 * i) =
      specWord s.num (s.drawCount + i) (decibel s.num (amplitude s.num
        (transform s.num s.fftLog2n.toNat (windowed s.num s.mem s.fftSize)) ((i + s.fftSize / 2) % s.fftSize))) := by
  have hend := specEnd_le hp hc
  rw [memRead32_congr fun b _ hb => memRead8_framePushed_below s (by omega), fanMem_eq, if_pos hdue]
  exact memRead32_memWriteWords _ _ _ _ _ (specWords_spectrumDb_getElem? s.num s.drawCount s.mem hi)

/-- Settles O29: no slot stores below the rings, so SPEC[i] holds the word the spectrum wrote: the narrowed dB value of
the shifted bin, or a drawn NaN. -/
theorem spectrumIsStoredShifted : Obligations.SpectrumIsStoredShifted := by
  intro s hacc hdue hp hc size bins db
  refine ⟨framePushed s, exec_pushFrame hacc, fun i hi => ?_, fun a hlo hhi => ?_⟩
  · rw [memRead32_framePushed_spec hdue hp hc hi]
    refine ⟨specWord_of_not_nan, fun hnan => ?_⟩
    rw [specWord, if_pos hnan]
    exact f32NaNOf_above_inf _
  · rw [memRead8_framePushed_below s hhi]
    exact memRead8_fanMem_of_outside fun _ => .inr hlo

end Sys2Proof.Machine
end

section
/-! PROOFS. The bit-reversal permutation (R144): the bits of rev_b(i), and the swaps of its in-place loop. -/

namespace Sys2Proof.Machine

/-! ## The reversed index -/

theorem bitRev_succ (b i : Nat) : bitRev (b + 1) i = 2 ^ b * (i % 2) + bitRev b (i / 2) := by
  rw [bitRev, Nat.mul_comm]

theorem bitRev_lt (b i : Nat) : bitRev b i < 2 ^ b := by
  induction b generalizing i with
  | zero => exact Nat.one_pos
  | succ b ih =>
    have hlow := ih (i / 2)
    rcases Nat.mod_two_eq_zero_or_one i with hi | hi <;> rw [bitRev_succ, hi, pow_succ] <;> omega

/-- Bit k moves to bit b - 1 - k: the lowest bit becomes the highest, and the others are those of i / 2. -/
theorem testBit_bitRev {b k : Nat} (i : Nat) (hk : k < b) : (bitRev b i).testBit (b - 1 - k) = i.testBit k := by
  induction b generalizing i k with
  | zero => omega
  | succ b ih =>
    rw [bitRev_succ, Nat.testBit_two_pow_mul_add _ (bitRev_lt b _)]
    cases k with
    | zero => simp
    | succ k =>
      rw [if_pos (by omega), show b + 1 - 1 - (k + 1) = b - 1 - k by omega, ih _ (by omega), Nat.testBit_succ]

/-- Reversing twice moves every bit back. -/
theorem bitRev_bitRev {b i : Nat} (hi : i < 2 ^ b) : bitRev b (bitRev b i) = i := by
  refine Nat.eq_of_testBit_eq fun k => ?_
  by_cases hk : k < b
  · have hback := testBit_bitRev (bitRev b i) (show b - 1 - k < b by omega)
    rw [show b - 1 - (b - 1 - k) = k by omega] at hback
    rw [hback, testBit_bitRev i hk]
  · have hpow : 2 ^ b ≤ 2 ^ k := Nat.pow_le_pow_right Nat.two_pos (by omega)
    rw [Nat.testBit_lt_two_pow ((bitRev_lt b _).trans_le hpow), Nat.testBit_lt_two_pow (hi.trans_le hpow)]

/-! ## The swaps of one array -/

@[simp] theorem length_swapAt (l : List F64) (i j : Nat) : (swapAt l i j).length = l.length := by simp [swapAt]

theorem getD_set {l : List F64} {i : Nat} (hi : i < l.length) (v : F64) (p : Nat) :
    (l.set i v).getD p 0 = if p = i then v else l.getD p 0 := by
  split_ifs with hp
  · rw [hp, List.getD_eq_getElem?_getD, List.getElem?_set_self hi, Option.getD_some]
  · rw [List.getD_eq_getElem?_getD, List.getElem?_set_ne (Ne.symm hp), ← List.getD_eq_getElem?_getD]

theorem getD_swapAt {l : List F64} {i j : Nat} (hi : i < l.length) (hj : j < l.length) (p : Nat) :
    (swapAt l i j).getD p 0 = if p = j then l.getD i 0 else if p = i then l.getD j 0 else l.getD p 0 := by
  rw [swapAt, getD_set (by rwa [List.length_set]), getD_set hi]

/-- One round of the loop: entries i and rev(i) are exchanged when i is the smaller. -/
def exchange (b : Nat) (l : List F64) (i : Nat) : List F64 :=
  if i < bitRev b i then swapAt l i (bitRev b i) else l

/-- The first `m` rounds of the loop, on one array. -/
def exchanged (b m : Nat) (l : List F64) : List F64 := (List.range m).foldl (exchange b) l

theorem exchanged_succ (b m : Nat) (l : List F64) :
    exchanged b (m + 1) l = exchange b (exchanged b m l) m := by
  simp [exchanged, List.range_succ]

/-- The permutation runs the same rounds on both arrays. -/
theorem permute_eq (b : Nat) (x : Scratch) : permute b x = ⟨exchanged b (2 ^ b) x.re, exchanged b (2 ^ b) x.im⟩ := by
  unfold permute exchanged
  induction List.range (2 ^ b) generalizing x with
  | nil => rfl
  | cons i is ih =>
    rw [List.foldl_cons, ih]
    unfold exchange
    split_ifs <;> simp [*]

theorem length_exchanged (b m : Nat) (l : List F64) : (exchanged b m l).length = l.length := by
  induction m with
  | zero => rfl
  | succ m ih =>
    rw [exchanged_succ, exchange]
    split_ifs
    · rw [length_swapAt, ih]
    · exact ih

/-- Which entry of the array stands at `p` after `m` rounds: the pairs {p, rev(p)} that hold an index below `m` are
exchanged, and no other. -/
def exchangeSource (b m p : Nat) : Nat := if p < m ∨ bitRev b p < m then bitRev b p else p

/-- Round `m` decides the pair {m, rev(m)} only. -/
theorem exchangeSource_succ_of_ne {b m p : Nat} (hp : p < 2 ^ b) (hm : p ≠ m) (hr : p ≠ bitRev b m) :
    exchangeSource b (m + 1) p = exchangeSource b m p := by
  have hne : bitRev b p ≠ m := fun h => hr (by rw [← h, bitRev_bitRev hp])
  have hiff : p < m + 1 ∨ bitRev b p < m + 1 ↔ p < m ∨ bitRev b p < m := by omega
  simp only [exchangeSource, hiff]

/-- A round that exchanges nothing finds its pair exchanged already, or a single entry. -/
theorem exchangeSource_succ_of_le {b m p : Nat} (hp : p < 2 ^ b) (hm : m < 2 ^ b) (hle : bitRev b m ≤ m) :
    exchangeSource b (m + 1) p = exchangeSource b m p := by
  have hback := bitRev_bitRev hm
  by_cases hpm : p = m
  · rcases hle.lt_or_eq with hlt | heq
    · simp [exchangeSource, hpm, hlt]
    · simp [exchangeSource, hpm, heq]
  by_cases hpr : p = bitRev b m
  · rcases hle.lt_or_eq with hlt | heq
    · simp [exchangeSource, hpr, hback, hlt]
    · simp [exchangeSource, hpr, heq]
  · exact exchangeSource_succ_of_ne hp hpm hpr

/-- Each array entry after `m` rounds, by induction on the rounds. -/
theorem getD_exchanged {b m p : Nat} {l : List F64} (hl : l.length = 2 ^ b) (hm : m ≤ 2 ^ b) (hp : p < 2 ^ b) :
    (exchanged b m l).getD p 0 = l.getD (exchangeSource b m p) 0 := by
  induction m generalizing p with
  | zero => simp [exchanged, exchangeSource]
  | succ m ih =>
    have hlen := (length_exchanged b m l).trans hl
    have hrev := bitRev_lt b m
    have hback : bitRev b (bitRev b m) = m := bitRev_bitRev (by omega)
    rw [exchanged_succ, exchange]
    split_ifs with hlt
    · rw [getD_swapAt (by omega) (by omega)]
      split_ifs with hpr hpm
      · have hsrc : exchangeSource b m m = m := if_neg (by omega)
        have hsrc' : exchangeSource b (m + 1) (bitRev b m) = m := by rw [exchangeSource, if_pos (by omega), hback]
        rw [ih (by omega) (by omega), hpr, hsrc, hsrc']
      · have hsrc : exchangeSource b m (bitRev b m) = bitRev b m := if_neg (by omega)
        have hsrc' : exchangeSource b (m + 1) m = bitRev b m := if_pos (by omega)
        rw [ih (by omega) hrev, hpm, hsrc, hsrc']
      · rw [ih (by omega) hp, exchangeSource_succ_of_ne hp hpm hpr]
    · rw [ih (by omega) hp, exchangeSource_succ_of_le hp (by omega) (by omega)]

/-- Settles O32: reversing moves bit by bit, and after all 2^b rounds every pair {i, rev(i)} is exchanged, in both
arrays. -/
theorem permutationReversesBits : Obligations.PermutationReversesBits := by
  refine ⟨fun b i k hk => testBit_bitRev i hk, fun b i hi => ⟨bitRev_lt b i, bitRev_bitRev hi⟩,
    fun b x hre him => ?_⟩
  have entry {l : List F64} (hl : l.length = 2 ^ b) {i : Nat} (hi : i < 2 ^ b) :
      (exchanged b (2 ^ b) l).getD i 0 = l.getD (bitRev b i) 0 := by
    rw [getD_exchanged hl le_rfl hi, exchangeSource, if_pos (.inl hi)]
  rw [permute_eq]
  exact ⟨(length_exchanged _ _ _).trans hre, (length_exchanged _ _ _).trans him,
    fun i hi => ⟨entry hre hi, entry him hi⟩⟩

end Sys2Proof.Machine
end

section
/-! PROOFS. The designer's taps (R141, R171, R173) and SET_FFT (R151). -/

namespace Sys2Proof.Machine

/-! ## The taps -/

/-- Tap `i` is the kernel's `i`-th value over the sum of the kernel (R173). -/
theorem design_getElem? {N : Numerics} {maxTaps T : Nat} {c : F64} {taps : List F64}
    (h : design N maxTaps T c = .ok taps) {i : Nat} (hi : i < T) :
    taps[i]? = some (N.div (rawTap N T c i) (sumUp N (rawTaps N T c))) := by
  obtain ⟨-, -, -, -, -, -, rfl⟩ := design_ok_iff.1 h
  rw [List.getElem?_map, rawTaps, List.getElem?_map, List.getElem?_range hi]
  rfl

/-- Settles O31: the mirrored kernel values are equal, and both are divided by the same sum. -/
theorem tapsAreSymmetric : Obligations.TapsAreSymmetric := by
  intro N maxTaps T c taps h
  have hodd : T % 2 = 1 := (design_ok_iff.1 h).1
  refine ⟨design_length h, fun i hi => ?_⟩
  rw [design_getElem? h hi, design_getElem? h (by omega), rawTap_mirror N hodd hi]

/-! ## SET_FFT -/

theorem exec_error_eq_failedWith {i : Instr} {s : State} {e : CmdError} (hr : i ≠ .softReset)
    (h : commandBody i s = .error e) : exec i s = .next (s.failedWith (errCode e) (errDetail e)) := by
  rw [exec_error hr h, raiseError_eq_failedWith]

/-- Settles O13: the branches of the rule, each with its completion; an accepted size is at most 16, which five bits
hold. -/
theorem setFftChecksAndWrites : Obligations.SetFftChecksAndWrites := by
  refine fun s hp => ⟨?_, fun hsize => ?_⟩
  · split_ifs with hrange hthrottle
    · exact exec_error_eq_failedWith (e := .fftSize) Instr.noConfusion (if_pos hrange)
    · exact exec_error_eq_failedWith (e := .fftThrottle) Instr.noConfusion ((if_neg hrange).trans (if_pos hthrottle))
    · have hbody : commandBody .setFft s = .ok _ := (if_neg hrange).trans (if_neg hthrottle)
      rw [exec_ok Instr.noConfusion hbody, complete_none_eq_succeeded, BitVec.ofNat_toNat]
      exact congrArg (fun moved => Host.Outcome.next (State.succeeded moved _)) (bne_self_eq_false s.stTuple)
  · have hmax := hp.maxLog2n.2
    rw [BitVec.toNat_ofNat, Nat.mod_eq_of_lt (by omega)]

end Sys2Proof.Machine
end

section
/-! PROOFS. DESIGN_FIR: the designer's checks in their order (R170, R173), and the command around the designer (R175,
R177). -/

namespace Sys2Proof.Machine

/-! ## The designer's checks, each on the kernels that pass the ones before it -/

section Checks

variable {maxTaps T : Nat} {c : F64}

theorem design_of_even (N : Numerics) (heven : T % 2 = 0) : design N maxTaps T c = .error .evenTaps := if_pos heven

theorem design_of_odd_of_outOfRange (N : Numerics) (hodd : T % 2 = 1) (hrange : T < 3 ∨ maxTaps < T) :
    design N maxTaps T c = .error .tapRange := by
  rw [design, if_neg (by omega), if_pos hrange]

theorem design_of_count_of_badCutoff (N : Numerics) (hodd : T % 2 = 1) (hmin : 3 ≤ T) (hmax : T ≤ maxTaps)
    (hc : f64Lt 0 c = false ∨ f64Lt c f64Half = false) : design N maxTaps T c = .error .cutoff := by
  rw [design, if_neg (by omega), if_neg (by omega), if_pos (Bool.and_eq_false_iff.2 hc)]

theorem design_of_badTapSum (N : Numerics) (hodd : T % 2 = 1) (hmin : 3 ≤ T) (hmax : T ≤ maxTaps)
    (hpos : f64Lt 0 c = true) (hhalf : f64Lt c f64Half = true)
    (hsum : f64FinitePos (sumUp N (rawTaps N T c)) = false) : design N maxTaps T c = .error .tapSum := by
  have hcut : (f64Lt 0 c && f64Lt c f64Half) ≠ false := by rw [hpos, hhalf]; decide
  rw [design, if_neg (by omega), if_neg (by omega), if_neg hcut]
  exact if_pos hsum

end Checks

/-! ## The command around the designer -/

/-- What the designer fails with is the command's BAD_CONFIG, with its detail (R175, R281). -/
theorem exec_designFir_of_error {s : State} {e : ConfigFault}
    (h : design s.num s.params.maxTaps s.args.nTaps.toNat s.args.cutoff = .error e) :
    exec .designFir s = .next (s.failedWith 6 (configDetail e)) := by
  have hbody : commandBody .designFir s = .error (.badConfig e) := by
    show designFirBody s.num s = _
    rw [designFirBody, h]
  exact exec_error_eq_failedWith Instr.noConfusion hbody

/-- The designed taps are put in TAP_MEM, and the command completes without a move of a slot (R175, R177). -/
theorem exec_designFir_of_ok {s : State} {taps : List F64}
    (h : design s.num s.params.maxTaps s.args.nTaps.toNat s.args.cutoff = .ok taps) :
    exec .designFir s = .next (((s.putTaps taps s.args.nTaps).setResult s.args.nTaps).succeeded false) := by
  have hbody : commandBody .designFir s = .ok _ := designFirBody_ok_iff.2 ⟨taps, h, rfl⟩
  rw [exec_ok Instr.noConfusion hbody, complete_none_eq_succeeded, stTuple_setResult, stTuple_putTaps,
    bne_self_eq_false]

/-- Settles O15: each check of the designer is one equation of the designer, and the command reports it. -/
theorem designFirRejectsInOrder : Obligations.DesignFirRejectsInOrder := by
  refine ⟨fun s => ⟨fun heven => ?_, fun hodd hrange => ?_, fun hodd hmin hmax hc => ?_, fun e he => ?_⟩,
    fun N maxTaps T c hodd hmin hmax hpos hhalf hsum => ?_, rfl⟩
  · exact exec_designFir_of_error (design_of_even s.num heven)
  · exact exec_designFir_of_error (design_of_odd_of_outOfRange s.num hodd hrange)
  · exact exec_designFir_of_error (design_of_count_of_badCutoff s.num hodd hmin hmax hc)
  · exact exec_designFir_of_error he
  · exact design_of_badTapSum N hodd hmin hmax hpos hhalf hsum

/-- Settles O16: the memory is the old one with the taps written at the base of TAP_MEM. -/
theorem designFirWritesTaps : Obligations.DesignFirWritesTaps := by
  refine fun s taps h => ⟨writeTaps s.mem taps, ?_, ?_, fun n v hv => ?_, fun a ha => ?_⟩
  · exact exec_designFir_of_ok h
  · exact design_length h
  · exact memRead64_writeTaps s.mem taps n v hv
  · exact memRead8_writeTaps_of_outside s.mem taps a ha

end Sys2Proof.Machine
end

section
/-! PROOFS. `configure` (R191), its checks and its commit, and the slot commands around it and beside it: RETUNE_RX,
STOP_RX, CONFIGURE_RX and READ_TAPS (R201 to R204), and ADD_RX while connected (R255). -/

namespace Sys2Proof.Machine

/-! ## The checks of configure, and its commit (R191) -/

theorem offsetOk_eq_false_iff {off prate : F64} :
    offsetOk off prate = false ↔ f64IsFinite off = false ∨ f64Le (f64Abs off) prate = false := Bool.and_eq_false_iff

section Configure

variable {N : Numerics} {maxTaps : Nat} {pcf prate : F64} {x : RxSlot}

theorem configure_of_badOffset (h : offsetOk (N.sub x.regs.cf pcf) prate = false) :
    configure N maxTaps pcf prate x = .error .centre := if_pos h

theorem configure_of_badDecimation (hoff : offsetOk (N.sub x.regs.cf pcf) prate = true)
    (hq : f64Lt (N.div prate x.regs.outRate) f64TwoPow32 = false) :
    configure N maxTaps pcf prate x = .error .decimation := by
  simp only [configure, hoff, Bool.true_eq_false, if_false, hq, if_true]

/-- With a usable offset and a quotient in range, configure is the designer and the commit. -/
theorem configure_eq_design (hoff : offsetOk (N.sub x.regs.cf pcf) prate = true)
    (hq : f64Lt (N.div prate x.regs.outRate) f64TwoPow32 = true) :
    configure N maxTaps pcf prate x =
      (design N maxTaps x.regs.nTaps.toNat (N.div (N.div x.regs.bw f64Two) prate)).map fun taps =>
        configured N pcf prate (N.sub x.regs.cf pcf) (N.div prate x.regs.outRate)
          (N.div (N.div x.regs.bw f64Two) prate) taps x := by
  simp only [configure, hoff, hq, Bool.true_eq_false, if_false]
  cases design N maxTaps x.regs.nTaps.toNat (N.div (N.div x.regs.bw f64Two) prate) <;> rfl

/-- What configure fails with: a check of its own, or the designer's (R191). -/
theorem configure_error {e : ConfigFault} (h : configure N maxTaps pcf prate x = .error e) :
    e = .centre ∨ e = .decimation ∨
      design N maxTaps x.regs.nTaps.toNat (N.div (N.div x.regs.bw f64Two) prate) = .error e := by
  cases hoff : offsetOk (N.sub x.regs.cf pcf) prate with
  | false => exact .inl (Except.error.inj ((configure_of_badOffset hoff).symm.trans h)).symm
  | true =>
    cases hq : f64Lt (N.div prate x.regs.outRate) f64TwoPow32 with
    | false => exact .inr (.inl (Except.error.inj ((configure_of_badDecimation hoff hq).symm.trans h)).symm)
    | true =>
      rw [configure_eq_design hoff hq] at h
      cases hd : design N maxTaps x.regs.nTaps.toNat (N.div (N.div x.regs.bw f64Two) prate) with
      | error e' =>
        rw [hd] at h
        obtain rfl : e' = e := Except.error.inj h
        exact .inr (.inr rfl)
      | ok taps => rw [hd] at h; cases h

end Configure

/-- The designer fails an odd tap count for its size, the cutoff or the tap sum only (R170, R173). -/
theorem design_error_of_odd {N : Numerics} {maxTaps T : Nat} {c : F64} {e : ConfigFault} (hodd : T % 2 = 1)
    (h : design N maxTaps T c = .error e) : e = .tapRange ∨ e = .cutoff ∨ e = .tapSum := by
  simp only [design] at h
  split_ifs at h with heven
  · omega
  all_goals cases h; simp

/-- Settles O41, each check on the operands that pass the ones before it. -/
theorem configureIsAllOrNothing : Obligations.ConfigureIsAllOrNothing := by
  refine fun N maxTaps pcf prate x => ⟨rfl, rfl, fun hpos => ?_, fun hoff => ?_, fun hfin hle => ⟨fun hq => ?_, fun hq =>
    ⟨fun e he => ?_, fun taps htaps => ?_⟩⟩⟩
  · exact if_neg (Bool.eq_false_iff.1 hpos)
  · exact configure_of_badOffset (offsetOk_eq_false_iff.2 hoff)
  · exact configure_of_badDecimation (Bool.and_eq_true_iff.2 ⟨hfin, hle⟩) hq
  · rw [configure_eq_design (Bool.and_eq_true_iff.2 ⟨hfin, hle⟩) hq]
    exact congrArg (Except.map _) he
  · rw [configure_eq_design (Bool.and_eq_true_iff.2 ⟨hfin, hle⟩) hq]
    exact congrArg (Except.map _) htaps

/-! ## A command on one slot -/

/-- Replacing a slot moves the tuple of STATE_CHANGE exactly when ST differs (R289). -/
theorem stTuple_setSlot_bne {s : State} {k : Nat} {x y : RxSlot} (hx : s.slots[k]? = some x) :
    ((s.setSlot k y).stTuple != s.stTuple) = decide (y.regs.st ≠ x.regs.st) := by
  by_cases hst : y.regs.st = x.regs.st
  · have hsame : (s.slots.set k y).map (fun z => z.regs.st) = s.slots.map fun z => z.regs.st := by
      obtain ⟨hk, rfl⟩ := List.getElem?_eq_some_iff.1 hx
      rw [List.map_set, hst, ← List.getElem_map (fun z : RxSlot => z.regs.st) (h := by simpa using hk),
        List.set_getElem_self]
    rw [decide_eq_false (not_not.2 hst), State.stTuple, setSlot_slots, hsame]
    exact bne_self_eq_false s.stTuple
  · rw [decide_eq_true hst]
    exact bne_iff_ne.2 (stTuple_setSlot_ne hx hst)

/-- A command whose rule replaces one slot and sets RESULT completes with STATE_CHANGE exactly when ST moves (R250). -/
theorem exec_of_setSlot {i : Instr} {s : State} {k : Nat} {x y : RxSlot} {w : Word} (hr : i ≠ .softReset)
    (hx : s.slots[k]? = some x) (h : commandBody i s = .ok ((s.setSlot k y).setResult w)) :
    exec i s = .next ({ s with slots := s.slots.set k y, result := w }.succeeded
      (decide (y.regs.st ≠ x.regs.st))) := by
  rw [exec_ok hr h, complete_none_eq_succeeded, stTuple_setResult, stTuple_setSlot_bne hx]
  rfl

/-- A command whose rule sets RESULT only completes without STATE_CHANGE (R250). -/
theorem exec_of_setResult {i : Instr} {s : State} {w : Word} (hr : i ≠ .softReset)
    (h : commandBody i s = .ok (s.setResult w)) :
    exec i s = .next ({ s with result := w }.succeeded false) := by
  rw [exec_ok hr h, complete_none_eq_succeeded, stTuple_setResult, bne_self_eq_false]
  rfl

/-- A state that is neither EMPTY nor UNCONFIGURED is CONFIGURED or STOPPED (R190). -/
theorem configured_or_stopped {st : RxSt} (he : st ≠ .empty) (hu : st ≠ .unconfigured) :
    st = .configured ∨ st = .stopped := by
  cases st <;> simp_all

/-! ## RETUNE_RX, STOP_RX (R201, R202) -/

theorem retuned_of_unconfigured {N : Numerics} {cf : F64} {x : RxSlot} (hu : x.regs.st = .unconfigured) :
    retuned N cf x =
      { x with regs := { x.regs with cf := cf, offset := N.sub cf x.regs.pcf, phase := 0 } } := by
  simp only [retuned, if_pos hu]

theorem retuned_of_ne_unconfigured {N : Numerics} {cf : F64} {x : RxSlot} (hu : x.regs.st ≠ .unconfigured) :
    retuned N cf x =
      { x with
        regs := { x.regs with
          cf := cf
          offset := N.sub cf x.regs.pcf
          phase := 0
          pinc := phaseInc N (N.sub cf x.regs.pcf) x.regs.prate } } := by
  simp only [retuned, if_neg hu]

/-- RETUNE_RX with a finite centre frequency and a usable offset, or none to check, retunes the slot, whose ST stays
(R201). -/
theorem exec_retuneRx {k : BitVec 8} {s : State} {x : RxSlot} (hx : s.slots[k.toNat]? = some x)
    (hne : x.regs.st ≠ .empty) (hcf : f64IsFinite s.args.cf = true)
    (ho : x.regs.st = .unconfigured ∨ offsetOk (s.num.sub s.args.cf x.regs.pcf) x.regs.prate = true) :
    exec (.retuneRx k) s =
      .next ({ s with slots := s.slots.set k.toNat (retuned s.num s.args.cf x), result := 1 }.succeeded false) := by
  have hok : commandBody (.retuneRx k) s = .ok _ := retuneRxBody_ok_iff.2 ⟨x, hx, .inr ⟨hne, hcf, ho, rfl⟩⟩
  have hst : (retuned s.num s.args.cf x).regs.st = x.regs.st := rfl
  rw [exec_of_setSlot Instr.noConfusion hx hok, decide_eq_false (not_not.2 hst)]

/-- Settles O21, branch by branch of R201. -/
theorem retuneRxMovesTheOffset : Obligations.RetuneRxMovesTheOffset := by
  intro k s x hx
  have hbody : commandBody (.retuneRx k) s = _ := withSlot_of_some hx
  dsimp only
  split_ifs with he hcf hu hoff
  · exact exec_of_setResult Instr.noConfusion (hbody.trans (if_pos he))
  · exact exec_error_eq_failedWith (e := .badConfig .centre) Instr.noConfusion
      (hbody.trans ((if_neg he).trans (if_pos hcf)))
  · rw [exec_retuneRx hx he (Bool.eq_true_of_not_eq_false hcf) (.inl hu), retuned_of_unconfigured hu]
  · exact exec_error_eq_failedWith (e := .badConfig .centre) Instr.noConfusion (hbody.trans ((if_neg he).trans
      ((if_neg hcf).trans (if_pos ⟨hu, offsetOk_eq_false_iff.2 hoff⟩))))
  · rw [← offsetOk_eq_false_iff, Bool.not_eq_false] at hoff
    rw [exec_retuneRx hx he (Bool.eq_true_of_not_eq_false hcf) (.inr hoff), retuned_of_ne_unconfigured hu]
    rfl

/-- Settles O22: of the two states left, only CONFIGURED is one that STOPPED differs from. -/
theorem stopRxOnlyStops : Obligations.StopRxOnlyStops := by
  intro k s x hx
  have hbody : commandBody (.stopRx k) s = _ := withSlot_of_some hx
  split_ifs with he hu
  · exact exec_error_eq_failedWith (e := .slotEmpty) Instr.noConfusion (hbody.trans (if_pos he))
  · exact exec_error_eq_failedWith (e := .stopUnconfigured) Instr.noConfusion
      (hbody.trans ((if_neg he).trans (if_pos hu)))
  · rw [exec_of_setSlot Instr.noConfusion hx (hbody.trans ((if_neg he).trans (if_neg hu)))]
    rcases configured_or_stopped he hu with hst | hst <;> rw [hst] <;> rfl

/-! ## CONFIGURE_RX, READ_TAPS, ADD_RX (R203, R204, R255) -/

/-- Settles O23: the commit gives the fields, and configure fails an odd tap count by one of the details named. -/
theorem configureRxConfigures : Obligations.ConfigureRxConfigures := by
  intro k s x hx
  have hbody : commandBody (.configureRx k) s = _ := withSlot_of_some hx
  refine ⟨fun he => ?_, fun he hc => ?_, fun he hc => ⟨fun e herr => ⟨?_, fun hodd => ?_⟩, fun y hy => ?_⟩⟩
  · exact exec_error_eq_failedWith (e := .slotEmpty) Instr.noConfusion (hbody.trans (if_pos he))
  · exact exec_error_eq_failedWith (e := .notConnected) Instr.noConfusion
      (hbody.trans ((if_neg he).trans (if_pos hc)))
  · simp only [if_neg he, hc, Bool.true_eq_false, if_false, herr] at hbody
    exact exec_error_eq_failedWith Instr.noConfusion hbody
  · rcases configure_error herr with rfl | rfl | hd
    · decide
    · decide
    · rcases design_error_of_odd hodd hd with rfl | rfl | rfl <;> decide
  · have hok : commandBody (.configureRx k) s = .ok _ := configureRxBody_ok_iff.2 ⟨x, y, hx, he, hc, hy, rfl⟩
    obtain ⟨-, -, taps, -, rfl⟩ := configure_ok_iff.1 hy
    refine ⟨?_, rfl, rfl, rfl, rfl⟩
    rw [exec_of_setSlot Instr.noConfusion hx hok]
    exact congrArg (fun moved => Host.Outcome.next (State.succeeded moved _)) (decide_eq_decide.2 ne_comm)

/-- Settles O24: the memory is the old one with the slot's T taps written at the base of TAP_MEM. -/
theorem readTapsCopiesTaps : Obligations.ReadTapsCopiesTaps := by
  intro k s x hx
  have hbody : commandBody (.readTaps k) s = _ := withSlot_of_some hx
  refine ⟨fun he => ?_, fun hu => ?_, fun hst => ⟨writeTaps s.mem (x.hidden.taps.take x.regs.nTaps.toNat), ?_,
    fun n v hn hv => ?_, fun a ha => ?_⟩⟩
  · exact exec_error_eq_failedWith (e := .slotEmpty) Instr.noConfusion (hbody.trans (if_pos he))
  · have he : x.regs.st ≠ .empty := by rw [hu]; decide
    exact exec_error_eq_failedWith (e := .tapsUnconfigured) Instr.noConfusion
      (hbody.trans ((if_neg he).trans (if_pos hu)))
  · have hok : commandBody (.readTaps k) s = .ok _ := readTapsBody_ok_iff.2 ⟨x, hx, hst, rfl⟩
    rw [exec_ok Instr.noConfusion hok, complete_none_eq_succeeded, stTuple_setResult, stTuple_putTaps,
      bne_self_eq_false]
    rfl
  · exact memRead64_writeTaps _ _ _ _ (by rwa [List.getElem?_take_of_lt hn])
  · have hlen : (x.hidden.taps.take x.regs.nTaps.toNat).length ≤ x.regs.nTaps.toNat := List.length_take_le _ _
    exact memRead8_writeTaps_of_outside _ _ _ (by omega)

/-- Settles O19: the rule stores what configure makes of the new receiver, or fails as it does. -/
theorem addRxWhileConnected : Obligations.AddRxWhileConnected := by
  refine fun k s x m hx hst hm hconn => ⟨fun y hy => ?_, fun e he => ?_⟩
  · have hok : commandBody (.addRx k) s = .ok _ :=
      addRxBody_ok_iff.2 ⟨x, m, y, hx, hst, hm, by rwa [hconn, if_neg (by decide)], rfl⟩
    rw [exec_of_setSlot Instr.noConfusion hx hok, (configured_sameReceiver hy).2.1, hst]
    rfl
  · have hbody : commandBody (.addRx k) s = _ := withSlot_of_some hx
    simp only [hst, ne_eq, not_true_eq_false, if_false, hm, hconn, Bool.true_eq_false, he] at hbody
    exact exec_error_eq_failedWith Instr.noConfusion hbody

end Sys2Proof.Machine
end

section
/-! PROOFS. The transitions of a slot's state (R190, R254): what each command's rule may do to ST, and that a completion
does nothing to it. -/

namespace Sys2Proof.Machine

/-! ## ST over a frame (R192, R199) -/

/-- A frame leaves an ST, or the slot was UNCONFIGURED or CONFIGURED and is so again. -/
theorem st_processIQ (N : Numerics) (p : Params) (fr : FrameRegs) (k : Nat) {x : RxSlot} (m : Memory) (ip : BitVec 10)
    (hne : x.regs.st ≠ .empty) :
    (processIQ N p fr k x m ip).slot.regs.st = x.regs.st ∨
      (x.regs.st = .unconfigured ∨ x.regs.st = .configured) ∧
        ((processIQ N p fr k x m ip).slot.regs.st = .configured ∨
          (processIQ N p fr k x m ip).slot.regs.st = .unconfigured) := by
  have hloop (z : RxSlot) : (iqLoop N p.audioDepth k fr.nPairs.toNat ⟨z, m, ip, 0⟩).slot.regs.st = z.regs.st :=
    (pairs_iqLoop N p.audioDepth k fr.nPairs.toNat ⟨z, m, ip, 0⟩).st
  rcases processIQ_cases N p fr k x m ip with ⟨-, e⟩ | ⟨hns, ⟨_, -, -, e⟩ | ⟨z, -, hz, e⟩ | ⟨-, e⟩⟩ <;> rw [e]
  · exact .inl rfl
  · exact .inr ⟨live_iff.2 ⟨hne, hns⟩, .inr rfl⟩
  · exact .inr ⟨live_iff.2 ⟨hne, hns⟩, .inl ((hloop z).trans (configured_sameReceiver hz).2.1)⟩
  · exact .inl (hloop _)

/-! ## ST over a command's rule -/

section Rules

variable {s u : State} {k : Nat} {x y : RxSlot}

/-- Replacing a slot leaves every other one. -/
theorem getElem?_setSlot {j : Nat} {z : RxSlot} (hx : s.slots[k]? = some x) (hy : (s.setSlot j z).slots[k]? = some y) :
    y = x ∨ j = k ∧ z = y := by
  rw [setSlot_slots, List.getElem?_set] at hy
  split_ifs at hy with hjk hlt
  · exact .inr ⟨hjk, Option.some.inj hy⟩
  · exact .inl (Option.some.inj (hy.symm.trans hx))

/-- A slot left alone makes no move. -/
theorem mayMove_of_eq {i : Instr} {c : Bool} (h : y = x) : mayMove i c k x.regs.st y.regs.st :=
  .inl (congrArg (fun z : RxSlot => z.regs.st) h.symm)

theorem mayMove_of_sameSlots {i : Instr} {c : Bool} (h : u.slots = s.slots) (hx : s.slots[k]? = some x)
    (hy : u.slots[k]? = some y) : mayMove i c k x.regs.st y.regs.st := by
  rw [h, hx] at hy
  exact mayMove_of_eq (Option.some.inj hy).symm

/-- A rule that replaces the slot a command names makes the move of that slot only. -/
theorem mayMove_of_setSlot {i : Instr} {c : Bool} {j : BitVec 8} {w z : RxSlot} (hx : s.slots[k]? = some x)
    (hw : s.slots[j.toNat]? = some w) (hy : (s.setSlot j.toNat z).slots[k]? = some y)
    (hmove : mayMove i c j.toNat w.regs.st z.regs.st) : mayMove i c k x.regs.st y.regs.st := by
  rcases getElem?_setSlot hx hy with hsame | ⟨rfl, rfl⟩
  · exact mayMove_of_eq hsame
  · rwa [Option.some.inj (hx.symm.trans hw)]

theorem mayMove_connect (h : connectBody s.num s = .ok u) (hx : s.slots[k]? = some x) (hy : u.slots[k]? = some y) :
    mayMove .connect s.status.connected k x.regs.st y.regs.st := by
  obtain ⟨-, -, rfl⟩ := connectBody_ok_iff.1 h
  rw [List.getElem?_map, hx] at hy
  obtain rfl := Option.some.inj hy
  unfold connectedSlot connectSlot
  split_ifs with he
  · exact mayMove_of_eq rfl
  · cases hc : configure s.num s.params.maxTaps s.args.cf s.args.rate x with
    | error e => exact .inr ⟨he, .inr rfl⟩
    | ok z => exact .inr ⟨he, .inl (configured_sameReceiver hc).2.1⟩

theorem mayMove_addRx {j : BitVec 8} (h : addRxBody s.num j s = .ok u) (hx : s.slots[k]? = some x)
    (hy : u.slots[k]? = some y) : mayMove (.addRx j) s.status.connected k x.regs.st y.regs.st := by
  obtain ⟨w, m, z, hw, he, -, hz, rfl⟩ := addRxBody_ok_iff.1 h
  refine mayMove_of_setSlot hx hw hy (.inr ⟨rfl, he, ?_⟩)
  cases hc : s.status.connected with
  | false => rw [if_pos hc] at hz; rw [hz]; rfl
  | true => rw [hc, if_neg (by decide)] at hz; exact (configured_sameReceiver hz).2.1

theorem mayMove_removeRx {j : BitVec 8} (h : removeRxBody j s = .ok u) (hx : s.slots[k]? = some x)
    (hy : u.slots[k]? = some y) : mayMove (.removeRx j) s.status.connected k x.regs.st y.regs.st := by
  obtain ⟨w, hw, ⟨-, rfl⟩ | ⟨-, rfl⟩⟩ := removeRxBody_ok_iff.1 h
  · exact mayMove_of_sameSlots rfl hx hy
  · exact mayMove_of_setSlot hx hw hy (.inr ⟨rfl, rfl⟩)

theorem mayMove_retuneRx {j : BitVec 8} (h : retuneRxBody s.num j s = .ok u) (hx : s.slots[k]? = some x)
    (hy : u.slots[k]? = some y) : mayMove (.retuneRx j) s.status.connected k x.regs.st y.regs.st := by
  obtain ⟨w, hw, ⟨-, rfl⟩ | ⟨-, -, -, rfl⟩⟩ := retuneRxBody_ok_iff.1 h
  · exact mayMove_of_sameSlots rfl hx hy
  · exact mayMove_of_setSlot hx hw hy (.inl rfl)

theorem mayMove_stopRx {j : BitVec 8} (h : stopRxBody j s = .ok u) (hx : s.slots[k]? = some x)
    (hy : u.slots[k]? = some y) : mayMove (.stopRx j) s.status.connected k x.regs.st y.regs.st := by
  obtain ⟨w, hw, hst, rfl⟩ := stopRxBody_ok_iff.1 h
  exact mayMove_of_setSlot hx hw hy (hst.symm.imp id fun hc => ⟨rfl, hc, rfl⟩)

theorem mayMove_configureRx {j : BitVec 8} (h : configureRxBody s.num j s = .ok u) (hx : s.slots[k]? = some x)
    (hy : u.slots[k]? = some y) : mayMove (.configureRx j) s.status.connected k x.regs.st y.regs.st := by
  obtain ⟨w, z, hw, he, hc, hz, rfl⟩ := configureRxBody_ok_iff.1 h
  exact mayMove_of_setSlot hx hw hy (.inr ⟨rfl, hc, he, (configured_sameReceiver hz).2.1⟩)

theorem mayMove_pushFrame (h : pushFrameBody s.num s = .ok u) (hx : s.slots[k]? = some x) (hy : u.slots[k]? = some y) :
    mayMove .pushFrame s.status.connected k x.regs.st y.regs.st := by
  obtain ⟨hc, -, -, -, rfl⟩ := pushFrameBody_ok_iff.1 h
  rw [setResult_slots, fanOutStep_slots, (sameSlots_throttleAndSpectrum _ _).slots] at hy
  rcases fanOut_slot hx with ⟨-, hsame⟩ | ⟨hne, m, ip, -, hat⟩
  · exact mayMove_of_eq (Option.some.inj (hy.symm.trans hsame))
  · obtain rfl := Option.some.inj (hy.symm.trans hat)
    exact (st_processIQ _ _ _ _ m ip hne).imp Eq.symm fun ⟨hfrom, hto⟩ => ⟨hc, hfrom, hto⟩

theorem mayMove_softReset (hy : s.resetRegisters.slots[k]? = some y) :
    mayMove .softReset s.status.connected k x.regs.st y.regs.st := by
  obtain ⟨j, -, rfl⟩ := List.mem_map.1 (List.mem_of_getElem? hy)
  exact .inr rfl

/-- The rule of a command makes the moves of the state machine's table only (R190, R254). -/
theorem mayMove_commandBody {i : Instr} (h : commandBody i s = .ok u) (hx : s.slots[k]? = some x)
    (hy : u.slots[k]? = some y) : mayMove i s.status.connected k x.regs.st y.regs.st := by
  cases i with
  | nop | disconnect => obtain rfl := Except.ok.inj h; exact mayMove_of_sameSlots rfl hx hy
  | softReset => obtain rfl := Except.ok.inj h; exact mayMove_softReset hy
  | connect => exact mayMove_connect h hx hy
  | setFft => obtain ⟨-, -, -, rfl⟩ := setFftBody_ok_iff.1 h; exact mayMove_of_sameSlots rfl hx hy
  | addRx j => exact mayMove_addRx h hx hy
  | removeRx j => exact mayMove_removeRx h hx hy
  | retuneRx j => exact mayMove_retuneRx h hx hy
  | stopRx j => exact mayMove_stopRx h hx hy
  | configureRx j => exact mayMove_configureRx h hx hy
  | readTaps j => obtain ⟨_, -, -, rfl⟩ := readTapsBody_ok_iff.1 h; exact mayMove_of_sameSlots rfl hx hy
  | pushFrame => exact mayMove_pushFrame h hx hy
  | designFir => obtain ⟨_, -, rfl⟩ := designFirBody_ok_iff.1 h; exact mayMove_of_sameSlots rfl hx hy

end Rules

/-- Settles O9: a completion moves no slot, so the moves of a command are those of its rule. -/
theorem slotStateMachine : Obligations.SlotStateMachine := by
  intro i s t k x y h hx hy
  rcases exec_cases i s with ⟨rfl, e⟩ | ⟨-, ⟨u, hu, e⟩ | ⟨err, -, e⟩⟩ <;>
    obtain rfl := Host.Outcome.next.inj (e.symm.trans h)
  · exact mayMove_softReset hy
  · exact mayMove_commandBody hu hx hy
  · exact mayMove_of_sameSlots rfl hx hy

end Sys2Proof.Machine
end

section
/-! PROOFS. One input pair and the decimator (R194 to R198, R205, R230, R237, R238): where a pair's samples stand in
FRAME_MEM, what the pair makes of the channel, and how many outputs the pairs of a frame give. -/

namespace Sys2Proof.Machine

/-! ## One pair (R194 to R198) -/

/-- Pair `j` is two words at FRAME_MEM + 8j (R94). -/
theorem frameI_eq (m : Memory) (j : Nat) : frameI m j = f64OfF32 (memRead32 m (0x200000 + 8 * j)) := by
  rw [frameI, frameWord, frameBase, ← Nat.mul_assoc]

theorem frameQ_eq (m : Memory) (j : Nat) : frameQ m j = f64OfF32 (memRead32 m (0x200000 + 8 * j + 4)) := by
  rw [frameQ, frameWord, frameBase, Nat.mul_add, ← Nat.mul_assoc, ← Nat.add_assoc]

theorem outputDue_iff {r : RxRegs} : r.outputDue = true ↔ r.decim.toNat ≤ r.dcnt.toNat + 1 := decide_eq_true_iff

theorem advance_of_due {N : Numerics} {i q : F64} {x : RxSlot} (h : x.regs.decim.toNat ≤ x.regs.dcnt.toNat + 1) :
    advance N i q x =
      { regs := { x.regs with phase := wrapPhase N (N.add x.regs.phase x.regs.pinc), dcnt := 0 }
        hidden := push x.regs.nTaps.toNat (mixI N i q x.regs.phase) (mixQ N i q x.regs.phase) x.hidden } := by
  rw [advance, if_pos h]

theorem advance_of_not_due {N : Numerics} {i q : F64} {x : RxSlot} (h : x.regs.dcnt.toNat + 1 < x.regs.decim.toNat) :
    advance N i q x =
      { regs := { x.regs with phase := wrapPhase N (N.add x.regs.phase x.regs.pinc), dcnt := x.regs.dcnt + 1 }
        hidden := push x.regs.nTaps.toNat (mixI N i q x.regs.phase) (mixQ N i q x.regs.phase) x.hidden } := by
  rw [advance, if_neg (Nat.not_le.2 h)]

/-- Settles O37: the pair is an advance, followed by the emission of the sample when the counter says so. -/
theorem pairAdvancesTheChannel : Obligations.PairAdvancesTheChannel := by
  refine fun N depth k j c => ⟨fun hdue => ?_, fun hdue => ?_⟩
  · rw [iqPair_due (outputDue_iff.2 hdue), dueSample, readyPipe, advance_of_due hdue, frameI_eq, frameQ_eq]
    rfl
  · rw [iqPair_not_due (Bool.eq_false_iff.2 fun h => Nat.not_le.2 hdue (outputDue_iff.1 h)), advance_of_not_due hdue,
      frameI_eq, frameQ_eq]
    rfl

/-! ## The decimator (R197, R205) -/

/-- A pair restarts the counter and gives an output when one is due, and counts up otherwise. -/
theorem dcnt_nout_iqPair (N : Numerics) (depth k j : Nat) (c : Pipe) :
    (c.slot.regs.decim.toNat ≤ c.slot.regs.dcnt.toNat + 1 ∧ (iqPair N depth k c j).slot.regs.dcnt = 0 ∧
        (iqPair N depth k c j).nout = c.nout + 1) ∨
      c.slot.regs.dcnt.toNat + 1 < c.slot.regs.decim.toNat ∧
        (iqPair N depth k c j).slot.regs.dcnt = c.slot.regs.dcnt + 1 ∧ (iqPair N depth k c j).nout = c.nout := by
  rcases Nat.lt_or_ge (c.slot.regs.dcnt.toNat + 1) c.slot.regs.decim.toNat with hlt | hdue
  · rw [iqPair_not_due (Bool.eq_false_iff.2 fun h => Nat.not_le.2 hlt (outputDue_iff.1 h)), advance_of_not_due hlt]
    exact .inr ⟨hlt, rfl, rfl⟩
  · rw [iqPair_due (outputDue_iff.2 hdue)]
    have hregs := (emits_emit N depth k (dueSample N j c) (readyPipe N j c)).regs
    have hready : (readyPipe N j c).slot.regs.dcnt = 0 := if_pos hdue
    exact .inl ⟨hdue, (congrArg RxRegs.dcnt hregs).trans hready, rfl⟩

/-- The counter stays below RX_DECIM, and with RX_DECIM for every output it counts the pairs. -/
theorem decimation_iqLoop (N : Numerics) (depth k n : Nat) {c : Pipe}
    (h : c.slot.regs.dcnt.toNat < c.slot.regs.decim.toNat) :
    (iqLoop N depth k n c).slot.regs.dcnt.toNat < c.slot.regs.decim.toNat ∧
      ∃ m, (iqLoop N depth k n c).nout = c.nout + m ∧
        (iqLoop N depth k n c).slot.regs.dcnt.toNat + c.slot.regs.decim.toNat * m = c.slot.regs.dcnt.toNat + n := by
  induction n with
  | zero => exact ⟨h, 0, rfl, rfl⟩
  | succ n ih =>
    obtain ⟨hlt, m, hnout, hcount⟩ := ih
    have hdecim : (iqLoop N depth k n c).slot.regs.decim = c.slot.regs.decim := (pairs_iqLoop N depth k n c).config.1
    rw [iqLoop_succ]
    rcases dcnt_nout_iqPair N depth k n (iqLoop N depth k n c) with ⟨hdue, hd, ho⟩ | ⟨hnot, hd, ho⟩ <;> rw [hd, ho]
    · rw [hdecim] at hdue
      refine ⟨Nat.zero_lt_of_lt h, m + 1, by rw [hnout, Nat.add_assoc], ?_⟩
      rw [Nat.mul_succ]
      show 0 + _ = _
      omega
    · rw [hdecim] at hnot
      have hone : ((iqLoop N depth k n c).slot.regs.dcnt + 1).toNat =
          (iqLoop N depth k n c).slot.regs.dcnt.toNat + 1 := by bv_omega
      rw [hone]
      exact ⟨hnot, m, hnout, by omega⟩

/-- Settles O36: outputs and counter are the quotient and the remainder of the pairs counted. -/
theorem decimatorCountsOutputs : Obligations.DecimatorCountsOutputs := by
  intro N depth k n c h
  obtain ⟨hlt, m, hnout, hcount⟩ := decimation_iqLoop N depth k n h
  obtain ⟨hdiv, hmod⟩ := (Nat.div_mod_unique (Nat.zero_lt_of_lt h)).2 ⟨hcount, hlt⟩
  exact ⟨by rw [hnout, hdiv], hmod.symm⟩

end Sys2Proof.Machine
end

section
/-! PROOFS. The demodulators and the non-finite guard (R230 to R236, R238): which sample a mode gives, and what of it
reaches the ring. -/

namespace Sys2Proof.Machine

/-! ## The demodulators -/

/-- The codes of the modes leave 6 and 7 free (R230). -/
theorem Mode.code_le (mode : Mode) : mode.code.toNat ≤ 5 := by cases mode <;> decide

/-- Settles O38: the codes of R45 tell the two detectors and LSB from the modes that give the filtered I sample. -/
theorem demodulatorsByMode : Obligations.DemodulatorsByMode := by
  intro N mode fi fq ip qp
  refine ⟨?_, mode.code_le⟩
  cases mode with
  | nfm => exact (if_pos rfl).symm
  | am => rw [if_neg (by decide)]; exact (if_pos rfl).symm
  | lsb => rw [if_neg (by decide), if_neg (by decide)]; exact (if_pos rfl).symm
  | usb | cw | raw => rw [if_neg (by decide), if_neg (by decide), if_neg (by decide)]; rfl

/-! ## The guard -/

/-- A binary32 datum is finite below the encoding of infinity, its sign left out. -/
theorem f32IsFinite_iff {v : F32} : f32IsFinite v = true ↔ v.toNat % 2 ^ 31 < 0x7F800000 := decide_eq_true_iff

theorem emit_of_finite {N : Numerics} {depth k : Nat} {y : F64} {c : Pipe} (h : f32IsFinite (N.toF32 y) = true) :
    emit N depth k y c = ringPush depth k (N.toF32 y) c := by
  rw [emit_eq, guarded, if_pos h, if_pos h]

theorem emit_of_not_finite {N : Numerics} {depth k : Nat} {y : F64} {c : Pipe} (h : ¬ f32IsFinite (N.toF32 y) = true) :
    emit N depth k y c = ringPush depth k 0
      { c with
        slot := { c.slot with regs := { c.slot.regs with numFault := satInc c.slot.regs.numFault } }
        ip := ipSet .numFault c.ip } := by
  rw [emit_eq, guarded, if_neg h, if_neg h]

/-- Settles O39: the guard looks at the sample after toF32, and a replaced one is counted and flagged before the push. -/
theorem guardReplacesNonFinite : Obligations.GuardReplacesNonFinite := by
  refine fun N depth k y c => ⟨fun hlt => emit_of_finite (f32IsFinite_iff.2 hlt), fun hge => ?_⟩
  have hnot : ¬ f32IsFinite (N.toF32 y) = true := fun h => Nat.not_lt.2 hge (f32IsFinite_iff.1 h)
  rw [emit_of_not_finite hnot, satInc_eq]
  rfl

end Sys2Proof.Machine
end

section
/-! PROOFS. Slots are isolated (R108, R258): of the memories a slot's frame reads FRAME_MEM alone, which no slot and no
spectrum writes, so the slot after the frame is a function of the slot, the frame and the parameters. -/

namespace Sys2Proof.Machine

/-! ## What decides the slot and its count of outputs (R197, R198, R238, R239) -/

/-- The slot after a push is decided by the slot before it. -/
theorem ringPush_slot_congr {depth k : Nat} {v : F32} {c d : Pipe} (h : d.slot = c.slot) :
    (ringPush depth k v d).slot = (ringPush depth k v c).slot := by
  unfold ringPush
  rw [h]
  dsimp only
  split_ifs <;> rfl

/-- Guard and push read neither memory nor IP. -/
theorem emit_slot_congr {N : Numerics} {depth k : Nat} {y : F64} {c d : Pipe} (h : d.slot = c.slot) :
    (emit N depth k y d).slot = (emit N depth k y c).slot := by
  rw [emit_eq, emit_eq]
  refine ringPush_slot_congr ?_
  unfold guarded
  rw [h]
  split_ifs
  · exact h
  · rfl

section Run

variable {p : Params} {m m' : Memory}

theorem frameWord_congr (h : sameFrameMem p m m') {i : Nat} (hi : i < 2 * p.maxFramePairs) :
    frameWord m' i = frameWord m i :=
  memRead32_congr fun a hlo hhi => h a (by omega) (by omega)

theorem frameI_congr (h : sameFrameMem p m m') {j : Nat} (hj : j < p.maxFramePairs) : frameI m' j = frameI m j :=
  congrArg f64OfF32 (frameWord_congr h (by omega))

theorem frameQ_congr (h : sameFrameMem p m m') {j : Nat} (hj : j < p.maxFramePairs) : frameQ m' j = frameQ m j :=
  congrArg f64OfF32 (frameWord_congr h (by omega))

/-- Two pipelines hold the same slot, and have given the same number of outputs. Unlike `Agree` it asks nothing of the
ring, which no frame reads. -/
def SameOutcome (c d : Pipe) : Prop := d.slot = c.slot ∧ d.nout = c.nout

/-- Besides its slot a pair reads its two samples only (R199 step 4). -/
theorem SameOutcome.iqPair {c d : Pipe} (h : SameOutcome c d) (hm : sameFrameMem p c.mem d.mem) (N : Numerics)
    (depth k : Nat) {j : Nat} (hj : j < p.maxFramePairs) :
    SameOutcome (iqPair N depth k c j) (iqPair N depth k d j) := by
  obtain ⟨hslot, hnout⟩ := h
  have hI := frameI_congr hm hj
  have hQ := frameQ_congr hm hj
  cases hdue : c.slot.regs.outputDue with
  | false =>
    rw [iqPair_not_due hdue, iqPair_not_due (hslot ▸ hdue), hI, hQ, hslot]
    exact ⟨rfl, hnout⟩
  | true =>
    have hsample : dueSample N j d = dueSample N j c := by unfold dueSample; rw [hI, hQ, hslot]
    have hready : (readyPipe N j d).slot = (readyPipe N j c).slot := by unfold readyPipe; rw [hI, hQ, hslot]
    rw [iqPair_due hdue, iqPair_due (hslot ▸ hdue), hsample, hnout]
    exact ⟨emit_slot_congr hready, rfl⟩

/-- The pairs of a frame store above FRAME_MEM only (R90, R239). -/
theorem sameFrameMem_iqLoop (hp : p.Valid) (N : Numerics) (depth k n : Nat) (c : Pipe) :
    sameFrameMem p c.mem (iqLoop N depth k n c).mem := by
  intro a _ hhi
  have hcap := hp.maxFramePairs.2
  exact memRead8_iqLoop_below N depth k n c a (by unfold frameBase at hhi; unfold audBase; omega)

theorem sameFrameMem_trans {m'' : Memory} (h : sameFrameMem p m m') (h' : sameFrameMem p m' m'') :
    sameFrameMem p m m'' := fun a hlo hhi => (h' a hlo hhi).trans (h a hlo hhi)

theorem sameFrameMem_symm (h : sameFrameMem p m m') : sameFrameMem p m' m := fun a hlo hhi => (h a hlo hhi).symm

theorem SameOutcome.iqLoop {c d : Pipe} (h : SameOutcome c d) (hp : p.Valid) (hm : sameFrameMem p c.mem d.mem)
    (N : Numerics) (depth k : Nat) {n : Nat} (hn : n ≤ p.maxFramePairs) :
    SameOutcome (iqLoop N depth k n c) (iqLoop N depth k n d) := by
  induction n with
  | zero => exact h
  | succ n ih =>
    rw [iqLoop_succ, iqLoop_succ]
    have hmem : sameFrameMem p (Machine.iqLoop N depth k n c).mem (Machine.iqLoop N depth k n d).mem :=
      sameFrameMem_trans (sameFrameMem_symm (sameFrameMem_iqLoop hp N depth k n c))
        (sameFrameMem_trans hm (sameFrameMem_iqLoop hp N depth k n d))
    exact (ih (by omega)).iqPair hmem N depth k (by omega)

/-! ## One frame of one slot (R199) -/

/-- What a frame makes of a slot is decided by the slot, the frame and the parameters. -/
theorem sameOutcome_processIQ (hp : p.Valid) (hm : sameFrameMem p m m') (N : Numerics) {fr : FrameRegs}
    (hfr : fr.nPairs.toNat ≤ p.maxFramePairs) (k : Nat) (x : RxSlot) (ip ip' : BitVec 10) :
    SameOutcome (processIQ N p fr k x m ip) (processIQ N p fr k x m' ip') := by
  have hloop (z : RxSlot) : SameOutcome (iqLoop N p.audioDepth k fr.nPairs.toNat ⟨z, m, ip, 0⟩)
      (iqLoop N p.audioDepth k fr.nPairs.toNat ⟨z, m', ip', 0⟩) :=
    SameOutcome.iqLoop (c := ⟨z, m, ip, 0⟩) (d := ⟨z, m', ip', 0⟩) ⟨rfl, rfl⟩ hp hm N p.audioDepth k hfr
  unfold processIQ
  dsimp only
  split_ifs with hst hd
  · exact ⟨rfl, rfl⟩
  · cases configure N p.maxTaps fr.cf fr.rate
        { x with regs := { x.regs with frames := x.regs.frames + 1 } } with
    | error e => exact ⟨rfl, rfl⟩
    | ok z => exact hloop z
  · exact hloop _

end Run

/-! ## The slot in the whole machine (R257, R258) -/

/-- A receiver takes an accepted frame with a memory whose FRAME_MEM is the host's. -/
theorem framePushed_at_sameFrameMem {s : State} (hp : s.params.Valid) (hc : s.ControlInv) {k : Nat} {x : RxSlot}
    (hx : s.slots[k]? = some x) (hne : x.regs.st ≠ .empty) : ∃ m ip, sameFrameMem s.params s.mem m ∧
      (framePushed s).slots[k]? = some (afterFrame (processIQ s.num s.params s.frame k x m ip)) := by
  obtain ⟨m, ip, hm, hat, -, -⟩ := framePushed_at (audioDepth_pos hp) hx hne
  refine ⟨m, ip, fun a hlo hhi => ?_, hat⟩
  have hbelow : a < audBase 0 := by
    have hcap := hp.maxFramePairs.2
    unfold frameBase at hhi
    unfold audBase
    omega
  exact (hm a fun i _ => not_inRing_of_lt hbelow).trans (memRead8_fanMem hp hc hlo)

/-- An accepted frame leaves an EMPTY slot (R257 step 5). -/
theorem framePushed_at_empty {s : State} {k : Nat} {x : RxSlot} (hx : s.slots[k]? = some x)
    (he : x.regs.st = .empty) : (framePushed s).slots[k]? = some x := by
  rw [framePushed_slots]
  rcases fanOut_slot (N := s.num) (p := s.params) (fr := s.frame) (k := 0) (m := fanMem s) (ip := fanIp s) hx with
    ⟨-, hat⟩ | ⟨hne, -⟩
  · exact hat
  · exact absurd he hne

theorem length_framePushed_slots (s : State) : (framePushed s).slots.length = s.slots.length := by
  rw [framePushed_slots]
  exact fanOut_length _ _ _ _ _ _ _

/-- Settles O30, by the slot: one that does not exist, an EMPTY one, and one that takes the frame. -/
theorem slotsAreIsolated : Obligations.SlotsAreIsolated := by
  intro s s' t t' k hp hc hc' hparams hacc hacc' hframe hmem hslot ht ht'
  obtain rfl := Host.Outcome.next.inj ((exec_pushFrame hacc).symm.trans ht)
  obtain rfl := Host.Outcome.next.inj ((exec_pushFrame hacc').symm.trans ht')
  have hnum : s'.num = s.num := congrArg (fun p : Params => p.num.record) hparams
  cases hx : s.slots[k]? with
  | none =>
    have hlen : s.slots.length ≤ k := List.getElem?_eq_none_iff.1 hx
    have hlen' : s'.slots.length ≤ k := List.getElem?_eq_none_iff.1 (hslot.symm.trans hx)
    rw [List.getElem?_eq_none (by rwa [length_framePushed_slots]),
      List.getElem?_eq_none (by rwa [length_framePushed_slots])]
  | some x =>
    have hx' : s'.slots[k]? = some x := hslot.symm.trans hx
    by_cases he : x.regs.st = .empty
    · rw [framePushed_at_empty hx he, framePushed_at_empty hx' he]
    · obtain ⟨m, ip, hm, hat⟩ := framePushed_at_sameFrameMem hp hc hx he
      obtain ⟨m', ip', hm', hat'⟩ := framePushed_at_sameFrameMem (hparams ▸ hp) hc' hx' he
      rw [hparams] at hm'
      rw [hnum, hparams, hframe] at hat'
      have hboth : sameFrameMem s.params m m' :=
        sameFrameMem_trans (sameFrameMem_symm hm) (sameFrameMem_trans hmem hm')
      obtain ⟨hs, hn⟩ := sameOutcome_processIQ hp hboth s.num hacc.2.1 k x ip ip'
      rw [hat, hat', afterFrame, afterFrame, hs, hn]

end Sys2Proof.Machine
end

section
/-! PROOFS. The commands of the multiplexer (R250 to R257): NOP, CONNECT, DISCONNECT, SOFT_RESET and REMOVE_RX, the
checks of ADD_RX and PUSH_FRAME, and the engine's turn around a command. -/

namespace Sys2Proof.Machine

/-! ## The engine's turn (R250) -/

theorem engineTurn_of_decode_ok {s : State} {i : Instr} (hbusy : s.status.busy = true)
    (h : decode s.params.numRx s.cmd = .ok i) : engineTurn s = exec i s := by
  rw [engineTurn, if_pos hbusy, engineStep, fetchCommand, h]

theorem engineTurn_of_idle {s : State} (h : s.status.busy = false) : engineTurn s = .next s := by
  rw [engineTurn, h, if_neg Bool.false_ne_true]

/-- Settles O5: an empty event list and an engine event both give the engine its turn, the latter without the event. -/
theorem stepRunsDecodedCommand : Obligations.StepRunsDecodedCommand := by
  refine ⟨fun s i hbusy hi => ⟨(decode_ok_iff_encode.1 hi).1, fun hev => ?_, fun es hev => ?_⟩,
    fun s hidle => ⟨fun hev => ?_, fun es hev => ?_⟩⟩
  · rw [step_nil hev, engineTurn_of_decode_ok hbusy hi]
  · rw [step_engine hev]
    exact engineTurn_of_decode_ok hbusy hi
  · rw [step_nil hev, engineTurn_of_idle hidle]
  · rw [step_engine hev]
    exact engineTurn_of_idle hidle

/-! ## NOP, DISCONNECT, SOFT_RESET (R251, R253, R254) -/

/-- Settles O10: the rule sets RESULT alone. -/
theorem nopOnlyCompletes : Obligations.NopOnlyCompletes :=
  ⟨fun _ => exec_of_setResult Instr.noConfusion rfl, fun _ => decode_rsvNonzero (o := .nop) rfl (by decide)⟩

/-- The tuple of STATE_CHANGE moves with CONNECTED or with some slot's ST (R289). -/
theorem stTuple_bne_iff {s t : State} : (t.stTuple != s.stTuple) = true ↔
    t.status.connected ≠ s.status.connected ∨
      (t.slots.map fun y => y.regs.st) ≠ s.slots.map fun x => x.regs.st := by
  rw [bne_iff_ne, ne_eq, State.stTuple, State.stTuple, Prod.mk.injEq, not_and_or]

/-- Settles O12: with the slots kept, STATE_CHANGE reports a CONNECTED that was set. -/
theorem disconnectOnlyDisconnects : Obligations.DisconnectOnlyDisconnects := by
  intro s
  have hok : commandBody .disconnect s = .ok _ := rfl
  rw [exec_ok Instr.noConfusion hok, complete_none_eq_succeeded]
  refine congrArg (fun moved => Host.Outcome.next (State.succeeded moved _)) (Bool.eq_iff_iff.2 ?_)
  rw [stTuple_bne_iff]
  simp

/-- The snapshot for STATE_CHANGE is retaken after the reset, so of the events the completion sets CMD_DONE alone
(R254). -/
theorem exec_softReset (s : State) :
    exec .softReset s = .next { s.resetRegisters with cmdSeq := 1, ip := 0x001#10 } := by
  have hip : completeIp none (s.resetRegisters.stTuple != s.resetRegisters.stTuple) 0 = 0x001#10 := by
    rw [bne_self_eq_false, completeIp_none]
    decide
  exact congrArg (fun ip => Host.Outcome.next { s.resetRegisters with cmdSeq := 1, ip := ip }) hip

/-- Settles O14: the register reset, of which the completion changes CMD_SEQ and IP alone. -/
theorem softResetThenCompletes : Obligations.SoftResetThenCompletes := by
  intro s
  refine ⟨_, exec_softReset s, rfl, ?_, fun x hx => ?_, rfl, status_word_powerOn s.params, ?_, fun _ => ?_⟩
  · rw [resetRegisters_slots, List.length_map, List.length_range]
  · obtain ⟨k, -, rfl⟩ := List.mem_map.1 hx
    rfl
  · show ((0 : BitVec 10) &&& 0x001#10 != 0) = false
    decide
  · exact decode_slotNonzero (o := .softReset) rfl rfl rfl (by decide)

/-! ## CONNECT (R252) -/

section ConnectedSlot

variable {N : Numerics} {maxTaps : Nat} {cf rate : F64} {x : RxSlot}

theorem connectedSlot_of_empty (he : x.regs.st = .empty) : connectedSlot N maxTaps cf rate x = x := if_pos he

theorem connectedSlot_of_ok {z : RxSlot} (hne : x.regs.st ≠ .empty) (h : configure N maxTaps cf rate x = .ok z) :
    connectedSlot N maxTaps cf rate x = z := by
  rw [connectedSlot, if_neg hne, connectSlot, h]

theorem connectedSlot_of_error {e : ConfigFault} (hne : x.regs.st ≠ .empty)
    (h : configure N maxTaps cf rate x = .error e) : connectedSlot N maxTaps cf rate x = implicitFail x := by
  rw [connectedSlot, if_neg hne, connectSlot, h]

/-- After CONNECT the CONFIGURED slots are those whose configure succeeded, and the UNCONFIGURED ones those whose
configure failed (R192, R252). -/
theorem connectedSlot_st : connectsOk N maxTaps cf rate x =
      decide ((connectedSlot N maxTaps cf rate x).regs.st = RxSt.configured) ∧
    connectFails N maxTaps cf rate x =
      decide ((connectedSlot N maxTaps cf rate x).regs.st = RxSt.unconfigured) := by
  unfold connectsOk connectFails
  by_cases he : x.regs.st = .empty
  · rw [connectedSlot_of_empty he, he]
    exact ⟨rfl, rfl⟩
  · rw [decide_eq_true he, Bool.true_and, Bool.true_and, connectSlot]
    cases h : configure N maxTaps cf rate x with
    | error e => rw [connectedSlot_of_error he h]; exact ⟨rfl, rfl⟩
    | ok z => rw [connectedSlot_of_ok he h, (configured_sameReceiver h).2.1]; exact ⟨rfl, rfl⟩

/-- RESULT of CONNECT, read off the slots it leaves. -/
theorem countP_connectsOk (xs : List RxSlot) : xs.countP (connectsOk N maxTaps cf rate) =
    (xs.map (connectedSlot N maxTaps cf rate)).countP fun y => decide (y.regs.st = RxSt.configured) := by
  rw [List.countP_map]
  exact congrArg (fun q => xs.countP q) (funext fun _ => connectedSlot_st.1)

/-- CFG_FAULT of CONNECT, read off the slots it leaves. -/
theorem any_connectFails (xs : List RxSlot) : xs.any (connectFails N maxTaps cf rate) =
    (xs.map (connectedSlot N maxTaps cf rate)).any fun y => decide (y.regs.st = RxSt.unconfigured) := by
  rw [List.any_map]
  exact congrArg xs.any (funext fun _ => connectedSlot_st.2)

end ConnectedSlot

/-- IP after CONNECT: CMD_DONE, CFG_FAULT on a failure, and STATE_CHANGE on a move (R252, R289). -/
theorem completeIp_cfgFault (failed moved : Bool) (ip : BitVec 10) :
    completeIp none moved (ipSetIf failed .cfgFault ip) =
      ip ||| 0x001#10 ||| (if failed then 0x020#10 else 0#10) ||| (if moved then 0x200#10 else 0#10) := by
  rw [completeIp_none]
  cases failed <;> cases moved <;> simp [ipSetIf, ipSet, Event.bit, BitVec.or_assoc]

/-- Settles O11: every slot is the connected one, and RESULT and CFG_FAULT can be read off the slots' ST. -/
theorem connectConfiguresEverySlot : Obligations.ConnectConfiguresEverySlot := by
  refine fun s => ⟨fun hrate => ?_, fun hrate hcf => ?_, fun hrate hcf => ?_⟩
  · exact exec_error_eq_failedWith (e := .widebandRate) Instr.noConfusion (if_pos hrate)
  · exact exec_error_eq_failedWith (e := .widebandCentre) Instr.noConfusion
      ((if_neg (by rw [hrate]; decide)).trans (if_pos hcf))
  · have hok : commandBody .connect s = .ok _ := connectBody_ok_iff.2 ⟨hrate, hcf, rfl⟩
    refine ⟨_, exec_ok Instr.noConfusion hok, ?_, List.length_map _, fun k x y hx hy => ?_⟩
    · unfold State.complete
      dsimp only
      rw [completeIp_cfgFault, any_connectFails, countP_connectsOk]
      congr 2
      exact if_congr (stTuple_bne_iff.trans (or_congr_left (by simp))) rfl rfl
    · rw [complete_slots, List.getElem?_map, hx] at hy
      obtain rfl := Option.some.inj hy
      exact ⟨connectedSlot_of_empty, fun hne z => connectedSlot_of_ok hne, fun hne e => connectedSlot_of_error hne⟩

/-! ## ADD_RX, REMOVE_RX (R255, R256) -/

/-- The numbers above 5 name no mode (R45). -/
theorem modeOf_eq_none_iff {w : Word} : modeOf w = none ↔ 5 < w.toNat := by
  unfold modeOf
  split_ifs with h0 h1 h2 h3 h4 h5
  case neg => exact ⟨fun _ => by bv_omega, fun _ => rfl⟩
  all_goals subst w; decide

section Checks

variable {p : Params} {a : ArgRegs} (hbw : ¬ f64FinitePos a.bw = false) (hout : ¬ f64FinitePos a.outRate = false)
  (heven : ¬ addTapCount p a % 2 = 0) (hrange : ¬ (addTapCount p a < 3 ∨ p.maxTaps < addTapCount p a))

include hbw hout heven hrange

theorem addChecks_of_badMode (hmode : modeOf a.mode = none) : addChecks p a = .error .mode := by
  rw [addChecks, if_neg hbw, if_neg hout, if_neg heven, if_neg hrange, hmode]

theorem addChecks_of_badCentre {m : Mode} (hmode : modeOf a.mode = some m) (hcf : f64IsFinite a.cf = false) :
    addChecks p a = .error .centre := by
  rw [addChecks, if_neg hbw, if_neg hout, if_neg heven, if_neg hrange, hmode]
  exact if_pos hcf

end Checks

/-- What the argument checks fail with is ADD_RX's BAD_CONFIG, with its detail (R255, R281). -/
theorem exec_addRx_of_badArguments {k : BitVec 8} {s : State} {x : RxSlot} {e : ConfigFault}
    (hx : s.slots[k.toNat]? = some x) (he : x.regs.st = .empty) (h : addChecks s.params s.args = .error e) :
    exec (.addRx k) s = .next (s.failedWith 6 (configDetail e)) := by
  have hbody : commandBody (.addRx k) s = _ := withSlot_of_some hx
  rw [if_neg (not_not.2 he), h] at hbody
  exact exec_error_eq_failedWith Instr.noConfusion hbody

/-- Settles O17, check by check of R255. -/
theorem addRxRejectsInOrder : Obligations.AddRxRejectsInOrder := by
  intro k s x hx T
  split_ifs with hst hbw hout heven hrange hmode hcf
  · exact exec_error_eq_failedWith (e := .slotInUse) Instr.noConfusion ((withSlot_of_some hx).trans (if_pos hst))
  all_goals have he : x.regs.st = .empty := not_not.1 hst
  · exact exec_addRx_of_badArguments (e := .bandwidth) hx he (if_pos hbw)
  · exact exec_addRx_of_badArguments (e := .outputRate) hx he ((if_neg hbw).trans (if_pos hout))
  · exact exec_addRx_of_badArguments (e := .evenTaps) hx he ((if_neg hbw).trans ((if_neg hout).trans (if_pos heven)))
  · exact exec_addRx_of_badArguments (e := .tapRange) hx he
      ((if_neg hbw).trans ((if_neg hout).trans ((if_neg heven).trans (if_pos hrange))))
  · exact exec_addRx_of_badArguments hx he
      (addChecks_of_badMode hbw hout heven hrange (modeOf_eq_none_iff.2 hmode))
  · obtain ⟨m, hm⟩ := Option.ne_none_iff_exists'.1 (mt modeOf_eq_none_iff.1 hmode)
    exact exec_addRx_of_badArguments hx he (addChecks_of_badCentre hbw hout heven hrange hm hcf)
  · rfl

/-- Settles O20: the cleared slot's hidden state is drawn, and ST moves from a receiver's to EMPTY. -/
theorem removeRxEmptiesTheSlot : Obligations.RemoveRxEmptiesTheSlot := by
  refine fun k s x hx => ⟨fun he => ?_, fun hne => ⟨hiddenDraw s.drawCount, s.drawCount + 1, ?_⟩⟩
  · exact exec_of_setResult Instr.noConfusion (removeRxBody_ok_iff.2 ⟨x, hx, .inl ⟨he, rfl⟩⟩)
  · have hok : commandBody (.removeRx k) s = .ok _ := removeRxBody_ok_iff.2 ⟨x, hx, .inr ⟨hne, rfl⟩⟩
    have hmoved : ((s.setSlot k.toNat (clearedSlot s.drawCount)).stTuple != s.stTuple) = true :=
      bne_iff_ne.2 (stTuple_setSlot_ne hx hne.symm)
    rw [exec_ok Instr.noConfusion hok, complete_none_eq_succeeded, stTuple_setResult]
    exact congrArg (fun moved => Host.Outcome.next (State.succeeded moved _)) hmoved

/-! ## The checks of PUSH_FRAME (R257) -/

/-- Settles O25, check by check of R257. -/
theorem pushFrameRejectsInOrder : Obligations.PushFrameRejectsInOrder := by
  have hbody (s : State) : commandBody .pushFrame s = pushFrameBody s.num s := rfl
  refine fun s => ⟨fun hc => ?_, fun hc hn => ?_, fun hc hn hr => ?_, fun hc hn hr hf => ?_⟩
  · exact exec_error_eq_failedWith (e := .notConnected) Instr.noConfusion (if_pos hc)
  · refine exec_error_eq_failedWith (e := .framePairs) Instr.noConfusion ?_
    rw [hbody, pushFrameBody, hc, if_neg (by decide), if_pos hn]
  · refine exec_error_eq_failedWith (e := .frameRate) Instr.noConfusion ?_
    rw [hbody, pushFrameBody, hc, if_neg (by decide), if_neg (Nat.not_lt.2 hn), if_pos hr]
  · refine exec_error_eq_failedWith (e := .frameCentre) Instr.noConfusion ?_
    rw [hbody, pushFrameBody, hc, if_neg (by decide), if_neg (Nat.not_lt.2 hn), hr, if_neg (by decide), if_pos hf]

end Sys2Proof.Machine
end

section
/-! PROOFS. Writes while BUSY = 1 (R36, R37, R97, R315), and the RST port (R310 to R312). -/

namespace Sys2Proof.Machine

/-! ## Writes while BUSY = 1 (R315) -/

/-- The registers that take their writes while BUSY = 1 are IE and IP, by offset (R36, R37, R315). -/
theorem busyWritable_iff {p : Params} {a : Nat} : busyWritable p a = true ↔ a = 0x028 ∨ a = 0x02C := by
  rw [busyWritable, Bool.and_eq_true, Bool.or_eq_true, decide_eq_true_iff, decide_eq_true_iff, decide_eq_true_iff,
    csrAt_eq_ie, csrAt_eq_ip, and_iff_right_iff_imp]
  rintro (rfl | rfl) <;> exact windowOf_csr (by decide)

/-- The step of a write to IP, BUSY or not (R37). -/
theorem step_write_ip {s : State} {v : Word} {es : List HostEvent} (hev : s.hostEvents = .write 0x02C v :: es) :
    step s = .next { s with hostEvents := es, herr := false, ip := s.ip &&& ~~~(v.setWidth 10) } := by
  rw [step_write_csr hev (by decide) (by decide) (.inr (.inr rfl)), (csrAt_eq_ip (o := (0x02C : Addr).toNat)).2 rfl]
  rfl

/-- The step of a write while BUSY = 1 that is neither rejected nor to IE or IP, in any window: a hazard (R315). -/
theorem step_write_hazard {s : State} {a : Addr} {v : Word} {es : List HostEvent}
    (hev : s.hostEvents = .write a v :: es) (hbusy : s.status.busy = true)
    (hok : badWrite s.params a.toNat = false) (hie : a ≠ 0x028) (hip : a ≠ 0x02C) :
    step s = .next { s with hostEvents := es, herr := false, ip := s.ip ||| 0x040#10 } := by
  have hno : ¬ busyWritable s.params a.toNat = true := fun h =>
    (busyWritable_iff.1 h).elim (fun h => hie (BitVec.eq_of_toNat_eq h)) fun h => hip (BitVec.eq_of_toNat_eq h)
  rw [step_write hev]
  rcases busWrite_cases a v { s with hostEvents := es } with ⟨hbad, -⟩ | ⟨-, -, -, h⟩ | ⟨-, hw, -⟩
  · exact absurd (hok.symm.trans hbad) (by decide)
  · rw [h]
    rfl
  · exact absurd (hw hbusy) hno

/-- Settles O45: a rejected write is one of R97's, IE and IP take theirs, and any other write is a hazard. -/
theorem busyWritesAreHazards : Obligations.BusyWritesAreHazards := by
  intro s a v es hbusy hev rejected
  have hrejected : badWrite s.params a.toNat = true ↔ rejected := by
    rw [badWrite_iff, or_assoc, ← List.mem_cons]
  split_ifs with hrej hie hip
  · exact (rejectedAccessesOnlyFlag s a v es).2.1 (badWrite_iff.1 (hrejected.2 hrej)) hev
  · exact (interruptRegisters s v es).1 (hie ▸ hev)
  · exact step_write_ip (hip ▸ hev)
  · exact step_write_hazard hev hbusy (Bool.eq_false_of_not_eq_true (mt hrejected.1 hrej)) hie hip

/-! ## The RST port (R310 to R312) -/

/-- A reset leaves every slot EMPTY, at its reset values (R62, R311). -/
theorem regs_of_mem_slots_resetRegisters {s : State} {x : RxSlot} (hx : x ∈ s.resetRegisters.slots) :
    x.regs = RxRegs.reset := by
  obtain ⟨k, -, rfl⟩ := List.mem_map.1 hx
  rfl

theorem slots_length_resetRegisters (s : State) : s.resetRegisters.slots.length = s.params.numRx := by
  rw [resetRegisters_slots, List.length_map, List.length_range]

/-- Settles O55: RST is the register reset of the machine without the event, whatever command was pending. -/
theorem resetPortGivesResetValues : Obligations.ResetPortGivesResetValues :=
  fun _ _ hev => ⟨_, step_rst hev, rfl, slots_length_resetRegisters _, fun _ hx => regs_of_mem_slots_resetRegisters hx⟩

end Sys2Proof.Machine
end
